-- ==== Sys2Proof/Word.lean ====
section
/-!
DEFINITION. The two word types of the SPARTN frame-sync block (SFB): bytes of the stream and of the
buffers, and the 32-bit words of the host registers (spec/00_scope.md R8, R9).
-/

namespace Sys2Proof

/-- A byte of the stream, of FBUF or of DBUF. -/
abbrev Byte := BitVec 8

/-- A host register's value; bit 0 is the least significant bit (R8). -/
abbrev Word := BitVec 32

end Sys2Proof
end

