-- ==== Sys2Proof/Config.lean ====
section
/-!
DEFINITION. What the spec fixes once for the block (spec/00_scope.md R6, R7), the parameters it leaves
OPEN, and the free values it leaves unspecified. An open parameter or a free value is an opaque constant:
nothing in Lean can evaluate it, so whatever is proved holds for every value of it.
-/

namespace Sys2Proof

/-- One CRC parameter set for width `w` (spec/41_crc.md R121): `poly`, `init` and `xorout` are `w`-bit
values, `refin` and `refout` say whether the input bytes and the final register are reflected. -/
structure CrcParams (w : Nat) where
  poly : BitVec w
  init : BitVec w
  refin : Bool
  refout : Bool
  xorout : BitVec w
  deriving DecidableEq, Repr, Inhabited

namespace Config

/-- The preamble byte (R6, R42). -/
abbrev preamble : Byte := 0x73#8

/-- FBUF_SIZE (R7, R43). -/
abbrev fbufSize : Nat := 2048

/-- DBUF_SIZE (R7, R44). -/
abbrev dbufSize : Nat := 2048

/-- Window offset of FBUF[0] (R60). -/
abbrev fbufBase : Nat := 0x1000

/-- Window offset of DBUF[0] (R60). -/
abbrev dbufBase : Nat := 0x2000

/-- CRC_PARAMS, the OPEN parameter of R122 (assumption 1): one parameter set for each of the widths
8, 16, 24 and 32. The model never asks it for another width. -/
opaque crcParams (w : Nat) : CrcParams w

/-- Free value (R248, decision D24; assumption 2): for the `n`-th EXTRACT, CRC_COMPUTE or CRC_VALIDATE
started, how many engine steps pass before the one that completes it. Finite and otherwise unspecified. -/
opaque execLatency (n : Nat) : Nat

/-- Free value (R43, R44, R240; assumption 3): the byte that window offset `a` of FBUF or DBUF holds after
hardware reset number `epoch`, until something is written there. -/
opaque unwrittenByte (epoch a : Nat) : Byte

end Config

end Sys2Proof
end

