-- ==== Sys2Proof/Syntax.lean ====
section
/-!
DEFINITION. Everything that reaches the block as syntax: the commands of spec/opcode_table.json, the host
registers by name, the host's bus accesses and its pseudo-instructions, the byte source's events, and the
SPARTN wire frame.
-/

namespace Sys2Proof

/-- The SRC field of a command word (R81): which buffer a command reads. -/
inductive Source where
  | dbuf
  | fbuf
  deriving DecidableEq, Repr

/-- The 2-bit CRC width code: the CRCW field of a command word and the wire's `crc_type` (R81, R120). -/
inductive CrcSel where
  | crc8
  | crc16
  | crc24
  | crc32
  deriving DecidableEq, Repr

/-- A command, one constructor per row of spec/opcode_table.json (R82). Every command word carries the
fields SRC and CRCW; an opcode that ignores a field still carries it, so that no bit of a word is lost. -/
inductive Instr where
  | nop (src : Source) (crcw : CrcSel)
  | readNext (src : Source) (crcw : CrcSel)
  | extract (src : Source) (crcw : CrcSel)
  | crcCompute (src : Source) (crcw : CrcSel)
  | crcValidate (src : Source) (crcw : CrcSel)
  | abort (src : Source) (crcw : CrcSel)
  | softReset (src : Source) (crcw : CrcSel)
  deriving DecidableEq, Repr

/-- The host registers of the map of spec/10_state.md R21. -/
inductive Reg where
  | ctrl | cmd | status | arg0 | arg1 | expected | dbufLen | resLo | resHi | frameLen
  | hdrFs | hdrPd | hdrTt | hdrEa | authLen | payloadOff | crcRx | crcCalc
  | frameCnt | discardCnt | crcErrCnt | ealUnmappedCnt | logCnt | byteCnt | lastErr | preamble
  deriving DecidableEq, Repr

/-- One event of the byte source (R64). -/
inductive SrcEvent where
  | byte (b : Byte)
  | eos
  | err
  deriving DecidableEq, Repr

/-- One thing the world around the engine does next (R10): a host bus access, the byte source making one
more event available, the engine's turn, or the reset input. An access gives a 14-bit offset inside the
16 KiB window and a width in bytes; a write of one byte uses the low byte of its value. -/
inductive Input where
  | read (off : BitVec 14) (width : Nat)
  | write (off : BitVec 14) (width : Nat) (value : Word)
  | offer (e : SrcEvent)
  | tick
  | rst
  deriving DecidableEq, Repr

/-- The host pseudo-instructions of R86, and the basic forms of R85. `wait` is a polling loop: here with
the number of polls the host makes. -/
inductive Pseudo where
  | wr (r : Reg) (v : Word)
  | rd (r : Reg)
  | wrb (i : BitVec 11) (v : Byte)
  | wrw (i : BitVec 11) (v : Word)
  | rdb (b : Source) (i : BitVec 11)
  | nop
  | readNext
  | extract (src : Source) (off n : Word)
  | crc (src : Source) (w : CrcSel) (start count : Word)
  | crcv (src : Source) (w : CrcSel) (start count exp : Word)
  | abort
  | softReset
  | wait (polls : Nat)
  | ack
  deriving DecidableEq, Repr

/-- The GNSS time tag of a frame: 16 bits when time_tag_type is 0, 32 bits when it is 1 (R91). -/
inductive TimeTag where
  | short (t : BitVec 16)
  | long (t : BitVec 32)
  deriving DecidableEq, Repr

/-- The 2-byte encryption/auth extension of a payload descriptor (R92). -/
structure EncExt where
  encryptionId : BitVec 4
  encryptionSequence : BitVec 6
  authIndicator : BitVec 3
  authLengthCode : BitVec 3
  deriving DecidableEq, Repr

/-- A SPARTN wire frame by its field values (R90 to R96). payload_length is the payload's length, EAF says
whether the extension is there, and the trailer is computed from the rest. -/
structure Frame where
  messageType : BitVec 7
  crcType : CrcSel
  frameCrc : BitVec 4
  messageSubtype : BitVec 4
  timeTag : TimeTag
  solutionId : BitVec 7
  solutionProcId : BitVec 4
  ext : Option EncExt
  payload : List Byte
  auth : List Byte
  deriving DecidableEq, Repr

end Sys2Proof
end

