-- ==== Sys2Proof/Machine/State.lean ====
section
/-!
DEFINITION. The state of the machine as plain data: the host registers (spec/10_state.md R21 to R42), the
two buffers (R43, R44), the engine's hidden state (R45, R47), the agents around the engine (R10, R20), and
the model's own counters for free values. Then the state after hardware reset (R240, R241), and the reasons
a step can stop.
-/

namespace Sys2Proof.Machine

/-- The states of the engine (R45). -/
inductive Fsm where
  | idle | exec | seek | fs | pd | pdTt | pdEa | payload | auth | crc
  deriving DecidableEq, Repr

/-- CTRL.POLICY (R22). The reserved value 3 is never stored (R23). -/
inductive Policy where
  | ignore
  | logAndContinue
  | raise
  deriving DecidableEq, Repr

/-- STATUS.OUTCOME (R24). -/
inductive CmdOutcome where
  | none
  | ok
  | endOfStream
  | streamError
  | error
  deriving DecidableEq, Repr

/-- The error codes of spec/60_exceptions.md R210. -/
inductive ErrCode where
  | none
  | crcMismatch
  | ealUnmapped
  | unknownProtocol
  | outOfRange
  | eof
  | sourceError
  | illegalCommand
  deriving DecidableEq, Repr

/-- CTRL by its fields (R22); bits [31:6] are reserved, read 0 and ignore writes. -/
structure Ctrl where
  crcEn : Bool
  policy : Policy
  strictEal : Bool
  upe : Bool
  ie : Bool
  deriving DecidableEq, Repr

/-- STATUS by its stored fields (R24). BUSY is not stored: it is 1 exactly when `fsm` is not IDLE (R45).
EOS_LATCHED is not stored: it mirrors `eos` (R45, R48). -/
structure Status where
  done : Bool
  outcome : CmdOutcome
  crcChecked : Bool
  crcOk : Bool
  errCode : ErrCode
  ovr : Bool
  accErr : Bool
  frameValid : Bool
  cmdOp : BitVec 4
  deriving DecidableEq, Repr

/-- The operand, result, frame, counter and error-log registers (R26 to R41). BYTE_CNT is not here: it is
the host's copy of the engine's `cursor` (R40, R47). CMD holds no state (R25) and PREAMBLE is a constant
(R42). -/
structure Regs where
  arg0 : Word
  arg1 : Word
  expected : Word
  dbufLen : Word
  resLo : Word
  resHi : Word
  frameLen : Word
  hdrFs : Word
  hdrPd : Word
  hdrTt : Word
  hdrEa : Word
  authLen : Word
  payloadOff : Word
  crcRx : Word
  crcCalc : Word
  frameCnt : Word
  discardCnt : Word
  crcErrCnt : Word
  ealUnmappedCnt : Word
  logCnt : Word
  lastErr : Word
  deriving DecidableEq, Repr

/-- The three commands that run in the state EXEC (R45, R180). -/
inductive ExecKind where
  | extract
  | crcCompute
  | crcValidate
  deriving DecidableEq, Repr

/-- The command snapshot `op` (R45, R70), captured at the CMD write. -/
structure Op where
  kind : ExecKind
  src : Source
  crcw : CrcSel
  arg0 : Word
  arg1 : Word
  expected : Word
  dbufLen : Word
  deriving DecidableEq, Repr

/-- The engine's hidden state (R45), and the byte cursor of R47. -/
structure Engine where
  fsm : Fsm
  need : Nat
  pos : Nat
  fPl : BitVec 10
  fEaf : Bool
  fCt : CrcSel
  fTtt : Bool
  fAi : BitVec 3
  fEalc : BitVec 3
  fAuth : Nat
  op : Option Op
  eos : Bool
  cursor : Nat
  deriving DecidableEq, Repr

/-- The agents around the engine (R10, R20): what the host and the source do next, in order; the events
the source has made available and the engine has not taken (the first is the one on the port, R64); whether
the source has offered Eos or Err in this stream (R64); and the value the host's last read returned. -/
structure Outside where
  inputs : List Input
  src : List SrcEvent
  srcEnded : Bool
  hostRead : Option Word
  deriving DecidableEq, Repr

/-- The model's own counters for free values (assumptions 2 and 3): `work` is the number of engine steps
that still pass before the one that completes the command in EXEC; `draws` counts the latencies drawn;
`epoch` counts the hardware resets. -/
structure Free where
  work : Nat
  draws : Nat
  epoch : Nat
  deriving DecidableEq, Repr

/-- The contents of FBUF and DBUF: (window offset, byte) pairs with strictly rising offsets, one for each
byte written since hardware reset. -/
abbrev Memory := List Host.Cell

/-- The whole machine (R20). -/
structure State where
  ctrl : Ctrl
  status : Status
  regs : Regs
  mem : Memory
  eng : Engine
  out : Outside
  free : Free
  deriving DecidableEq, Repr

/-- Why the machine stops. The spec gives the block no fault; these two name the states that the spec's
own invariants rule out and for which it gives no step, so that the model does not invent one. -/
inductive Fault where
  /-- Raised by `chunkByte` in a state that breaks R142's entry invariant: no byte is needed, or the next
  FBUF index is outside FBUF. Safe: the model stops where the spec gives no step. -/
  | frameStateBroken
  /-- Raised by `engineStep` in EXEC with no operands captured (R45, R180). Safe, as above. -/
  | execWithoutOperands
  deriving DecidableEq, Repr

/-- Why the model takes no step. -/
inductive Refusal where
  /-- An instruction that has no meaning in the model. No arm of `exec` answers it. Safe. -/
  | notModelled (mnemonic : String)
  /-- Raised by `offerEvent` when the source offers an event after Eos or Err in the same stream: R64 and
  spec/93_implementation_defined.md I8 put that outside the model and say to refuse it. Safe. -/
  | offerAfterEnd
  deriving DecidableEq, Repr

/-- CTRL after reset: 0x00000003 (R241). -/
def Ctrl.reset : Ctrl :=
  { crcEn := true, policy := .logAndContinue, strictEal := false, upe := false, ie := false }

/-- STATUS after reset: 0 (R241). -/
def Status.reset : Status :=
  { done := false, outcome := .none, crcChecked := false, crcOk := false, errCode := .none,
    ovr := false, accErr := false, frameValid := false, cmdOp := 0#4 }

/-- Every register of `Regs` after reset: 0 (R241). -/
def Regs.reset : Regs :=
  { arg0 := 0#32, arg1 := 0#32, expected := 0#32, dbufLen := 0#32, resLo := 0#32, resHi := 0#32,
    frameLen := 0#32, hdrFs := 0#32, hdrPd := 0#32, hdrTt := 0#32, hdrEa := 0#32, authLen := 0#32,
    payloadOff := 0#32, crcRx := 0#32, crcCalc := 0#32, frameCnt := 0#32, discardCnt := 0#32,
    crcErrCnt := 0#32, ealUnmappedCnt := 0#32, logCnt := 0#32, lastErr := 0#32 }

/-- The hidden state after reset (R45, R241). -/
def Engine.reset : Engine :=
  { fsm := .idle, need := 0, pos := 0, fPl := 0#10, fEaf := false, fCt := .crc8, fTtt := false,
    fAi := 0#3, fEalc := 0#3, fAuth := 0, op := none, eos := false, cursor := 0 }

/-- The machine right after hardware reset (R240, R241), with nothing offered and nothing scheduled:
no byte of FBUF or DBUF is specified, so none is listed. The fields of `out` and `free` are the model's own
(assumptions 2, 3 and 4). -/
def State.reset : State :=
  { ctrl := Ctrl.reset, status := Status.reset, regs := Regs.reset, mem := [], eng := Engine.reset,
    out := { inputs := [], src := [], srcEnded := false, hostRead := none },
    free := { work := 0, draws := 0, epoch := 0 } }

end Sys2Proof.Machine
end

