-- ==== Sys2Proof/Machine/BitField.lean ====
section
/-!
DEFINITION. Bit-field extraction and wire byte order (spec/40_bitfield.md R110, spec/00_scope.md R9,
spec/20_memory.md R67): bit 0 of a byte sequence is the most significant bit of its first byte.
-/

namespace Sys2Proof.Machine

/-- `bit(buf, k) = (buf[k div 8] >> (7 - (k mod 8))) & 1` (R110). DESIGN CHOICE (assumption 20): past the end of
the buffer, where R110 defines nothing, a bit is 0. -/
def bitAt (buf : List Byte) (k : Nat) : Nat :=
  ((buf.getD (k / 8) 0#8).getLsbD (7 - k % 8)).toNat

/-- `ext(buf, off, n)` (R110): the bits `off .. off+n-1` in stream order, most significant first. R110 defines it
only for `1 <= n <= 64` and a buffer that holds the field. DESIGN CHOICE (assumption 20): the model makes it total,
with 0 for `n = 0`, an n-bit number for `n > 64`, and `bitAt`'s 0 past the end of the buffer. The callers check the
precondition first or meet it by their chunk's length (R112, R114). -/
def ext (buf : List Byte) (off : Nat) : Nat → Nat
  | 0 => 0
  | n + 1 => 2 * ext buf off n + bitAt buf (off + n)

/-- `BE(s)`, the big-endian unsigned integer of a byte sequence (R9). -/
def beNat (s : List Byte) : Nat := s.foldl (fun acc b => 256 * acc + b.toNat) 0

/-- The `n` big-endian bytes of `v` (R67). -/
def bytesBE : Nat → Nat → List Byte
  | 0, _ => []
  | n + 1, v => BitVec.ofNat 8 (v >>> (8 * n)) :: bytesBE n v

/-- `ceil(x/8)` (R9). -/
def bytesForBits (x : Nat) : Nat := (x + 7) / 8

/-- A field of a packed register: `v << sh` (R143, R146). -/
def regField (v sh : Nat) : Word := BitVec.ofNat 32 v <<< sh

end Sys2Proof.Machine
end

