-- ==== Sys2Proof/WellFormed.lean ====
section
/-!
DEFINITION. What makes a command word and a wire frame well formed. An `Instr` needs no check of its own:
its fields are closed types, so every term is a command the spec has; what can be ill formed is the word
the host writes to CMD (R83) and the frame a sender builds (R96).
-/

namespace Sys2Proof

/-- R180's `ok(w)`: the opcode is one of 0..6 and the reserved bits are 0 (R83). -/
def CommandWord.ok (w : Word) : Bool :=
  decide (w.toNat / 2 ^ 8 = 0) && decide (w.toNat / 2 ^ 5 % 2 = 0) && decide (w.toNat % 2 ^ 4 ≤ 6)

/-- The embedded-auth length the fields of a frame imply (the table of R94). -/
def Frame.authBytes (f : Frame) : Nat :=
  match f.ext with
  | none => 0
  | some e =>
    if e.authIndicator.toNat ≤ 1 then 0
    else
      match e.authLengthCode.toNat with
      | 0 => 8
      | 1 => 12
      | 2 => 16
      | 3 => 32
      | 4 => 64
      | _ => 0

/-- A frame a sender can put on the wire: its payload fits the 10-bit length, and the embedded
authentication has the length its header says (R90, R96). -/
def Frame.wf (f : Frame) : Bool :=
  decide (f.payload.length ≤ 1023) && decide (f.auth.length = f.authBytes)

/-- The frame's auth length code is one the table of R94 maps, or is not used (R158's EALC of 0..4). -/
def Frame.authMapped (f : Frame) : Bool :=
  match f.ext with
  | none => true
  | some e => decide (e.authIndicator.toNat ≤ 1) || decide (e.authLengthCode.toNat ≤ 4)

end Sys2Proof
end

