-- ==== Sys2Proof/Decode.lean ====
section
/-!
DEFINITION. The command word (spec/30_encoding.md R80 to R83): the opcode table as rows of match and mask,
the decoder read from it, and the encoder written from the same table.
-/

namespace Sys2Proof

/-- The 2-bit code of a CRC width selector (R81: 0 is CRC-8 and so on). -/
def crcCode : CrcSel → Nat
  | .crc8 => 0
  | .crc16 => 1
  | .crc24 => 2
  | .crc32 => 3

/-- The CRC width selector of a 2-bit code (R81). -/
def crcOfCode (c : BitVec 2) : CrcSel :=
  match c.toNat with
  | 0 => .crc8
  | 1 => .crc16
  | 2 => .crc24
  | _ => .crc32

/-- The SRC bit of a source (R81). -/
def sourceBit : Source → Nat
  | .dbuf => 0
  | .fbuf => 1

/-- One row of the opcode map (R82): a word selects the row whose masked bits equal its match. -/
structure OpcodeRow where
  pattern : Word
  mask : Word
  build : Source → CrcSel → Instr

/-- R82's mask: bits [31:8], [5] and [3:0] are fixed, bits [4] and [7:6] are fields. -/
def opcodeMask : Word := 0xFFFFFF2F#32

/-- The opcode map (R82). -/
def opcodeRows : List OpcodeRow :=
  [⟨0x00000000#32, opcodeMask, .nop⟩,
   ⟨0x00000001#32, opcodeMask, .readNext⟩,
   ⟨0x00000002#32, opcodeMask, .extract⟩,
   ⟨0x00000003#32, opcodeMask, .crcCompute⟩,
   ⟨0x00000004#32, opcodeMask, .crcValidate⟩,
   ⟨0x00000005#32, opcodeMask, .abort⟩,
   ⟨0x00000006#32, opcodeMask, .softReset⟩]

/-- Why a command word is no command: a name for each of R83's three conditions. DESIGN CHOICE
(assumption 21): R83 gives the conditions no names. -/
inductive Reject where
  | reservedOpcode
  | reservedBit5
  | reservedHighBits
  deriving DecidableEq, Repr

/-- SRC, bit [4] (R81). -/
def srcField (w : Word) : Source := if w.getLsbD 4 then .fbuf else .dbuf

/-- CRCW, bits [7:6] (R81). -/
def crcwField (w : Word) : CrcSel := crcOfCode (w.extractLsb' 6 2)

/-- OP, bits [3:0] (R81). -/
def opField (w : Word) : BitVec 4 := w.extractLsb' 0 4

/-- The name under which an illegal word (R83) is rejected. DESIGN CHOICE (assumption 21): where several of
R83's conditions hold, the high bits are named first, then bit 5, then the opcode. -/
def rejectReason (w : Word) : Reject :=
  if w.extractLsb' 8 24 ≠ 0#24 then .reservedHighBits
  else if w.getLsbD 5 then .reservedBit5
  else .reservedOpcode

/-- The decoder, total on every 32-bit word written to CMD (R80, R82, R83). -/
def decode (w : Word) : Except Reject Instr :=
  match opcodeRows.find? (fun r => w &&& r.mask == r.pattern) with
  | some r => .ok (r.build (srcField w) (crcwField w))
  | none => .error (rejectReason w)

/-- The opcode number of a command (R82). -/
def opcode : Instr → BitVec 4
  | .nop _ _ => 0#4
  | .readNext _ _ => 1#4
  | .extract _ _ => 2#4
  | .crcCompute _ _ => 3#4
  | .crcValidate _ _ => 4#4
  | .abort _ _ => 5#4
  | .softReset _ _ => 6#4

/-- The SRC field a command carries. -/
def instrSrc : Instr → Source
  | .nop s _ | .readNext s _ | .extract s _ | .crcCompute s _ | .crcValidate s _ | .abort s _
  | .softReset s _ => s

/-- The CRCW field a command carries. -/
def instrCrcw : Instr → CrcSel
  | .nop _ c | .readNext _ c | .extract _ c | .crcCompute _ c | .crcValidate _ c | .abort _ c
  | .softReset _ c => c

/-- The encoder: `OP | SRC << 4 | CRCW << 6` (R81, R86). -/
def encode (i : Instr) : Word :=
  (opcode i).setWidth 32 ||| (BitVec.ofNat 32 (sourceBit (instrSrc i)) <<< 4)
    ||| (BitVec.ofNat 32 (crcCode (instrCrcw i)) <<< 6)

/-- The command the decoder reads from the low `nbits` bits of `w`, numbered as the opcode table numbers
them; a command is one 32-bit word (R80). -/
def decodeTableWord (nbits w : Nat) : Option Instr :=
  (decode (BitVec.ofNat 32 (w % 2 ^ nbits))).toOption

end Sys2Proof
end

