-- ==== Sys2Proof/Machine/Crc.lean ====
section
/-!
DEFINITION. The CRC function (spec/41_crc.md R120, R121): the parameterised model of R121 over one
parameter set, and the block's use of it with the OPEN parameter CRC_PARAMS (R122).
-/

namespace Sys2Proof.Machine

/-- `reflect_w`: bit i moves to bit w-1-i (R121). -/
def reflectBits {w : Nat} (x : BitVec w) : BitVec w := x.reverse

/-- One shift of the CRC register (R121). -/
def crcShift {w : Nat} (p : CrcParams w) (reg : BitVec w) : BitVec w :=
  if reg.msb then (reg <<< 1) ^^^ p.poly else reg <<< 1

/-- `n` shifts of the CRC register. -/
def crcShifts {w : Nat} (p : CrcParams w) : Nat → BitVec w → BitVec w
  | 0, reg => reg
  | n + 1, reg => crcShifts p n (crcShift p reg)

/-- One byte into the CRC register (R121): reflected if `refin`, aligned to the register's top, then eight
shifts. -/
def crcByte {w : Nat} (p : CrcParams w) (reg : BitVec w) (b : Byte) : BitVec w :=
  let d : Byte := if p.refin then reflectBits b else b
  crcShifts p 8 (reg ^^^ ((d.setWidth w) <<< (w - 8)))

/-- `crc(w, s)` for one parameter set (R121). -/
def crc {w : Nat} (p : CrcParams w) (s : List Byte) : BitVec w :=
  let reg := s.foldl (crcByte p) p.init
  (if p.refout then reflectBits reg else reg) ^^^ p.xorout

/-- `w = 8 * (code + 1)` (R84, R120). -/
def crcWidth (c : CrcSel) : Nat := 8 * (crcCode c + 1)

/-- The bytes a CRC value occupies: `code + 1` (R120). -/
def crcBytes (c : CrcSel) : Nat := crcCode c + 1

/-- `zext_32(crc(w, s))` under CRC_PARAMS (R122). -/
def crcWord (c : CrcSel) (s : List Byte) : Word :=
  (crc (Config.crcParams (crcWidth c)) s).setWidth 32

end Sys2Proof.Machine
end

