-- ==== Sys2Proof/Machine/Flags.lean ====
section
/-!
DEFINITION. CTRL and STATUS as words (spec/10_state.md R22, R24), the flags that mirror the engine
(R45, R48), the write-1-to-clear bits, and the block's two output lines (spec/60_exceptions.md R214,
spec/20_memory.md R64).
-/

namespace Sys2Proof.Machine

/-- STATUS.BUSY: 1 exactly when fsm is not IDLE (R45). -/
def busy (s : State) : Bool := decide (s.eng.fsm ≠ .idle)

/-- The states in which a READ_NEXT is running: SEEK through CRC (R180). -/
def Fsm.reading : Fsm → Bool
  | .idle | .exec => false
  | .seek | .fs | .pd | .pdTt | .pdEa | .payload | .auth | .crc => true

/-- The states of a frame attempt: FS through CRC (R142, R152). -/
def Fsm.inFrame : Fsm → Bool
  | .idle | .exec | .seek => false
  | .fs | .pd | .pdTt | .pdEa | .payload | .auth | .crc => true

/-- The code of CTRL.POLICY (R22). -/
def policyCode : Policy → Nat
  | .ignore => 0
  | .logAndContinue => 1
  | .raise => 2

/-- The code of STATUS.OUTCOME (R24). -/
def outcomeCode : CmdOutcome → Nat
  | .none => 0
  | .ok => 1
  | .endOfStream => 2
  | .streamError => 3
  | .error => 4

/-- The number of an error code (R210). -/
def errNumber : ErrCode → Nat
  | .none => 0
  | .crcMismatch => 1
  | .ealUnmapped => 2
  | .unknownProtocol => 3
  | .outOfRange => 4
  | .eof => 5
  | .sourceError => 6
  | .illegalCommand => 7

/-- A number placed at bit `k` of a register. -/
def atBit (v k : Nat) : Word := BitVec.ofNat 32 v <<< k

/-- CTRL as the host reads it (R22). -/
def ctrlWord (c : Ctrl) : Word :=
  atBit c.crcEn.toNat 0 ||| atBit (policyCode c.policy) 1 ||| atBit c.strictEal.toNat 3
    ||| atBit c.upe.toNat 4 ||| atBit c.ie.toNat 5

/-- What POLICY holds after a write of its two bits: the reserved value 3 leaves it unchanged (R22, R23). -/
def policyWrite (old : Policy) (v : BitVec 2) : Policy :=
  match v.toNat with
  | 0 => .ignore
  | 1 => .logAndContinue
  | 2 => .raise
  | _ => old

/-- An admitted write of `v` to CTRL (R22). -/
def ctrlWrite (c : Ctrl) (v : Word) : Ctrl :=
  { crcEn := v.getLsbD 0, policy := policyWrite c.policy (v.extractLsb' 1 2),
    strictEal := v.getLsbD 3, upe := v.getLsbD 4, ie := v.getLsbD 5 }

/-- STATUS as the host reads it (R24). -/
def statusWord (s : State) : Word :=
  atBit (busy s).toNat 0 ||| atBit s.status.done.toNat 1 ||| atBit (outcomeCode s.status.outcome) 2
    ||| atBit s.status.crcChecked.toNat 5 ||| atBit s.status.crcOk.toNat 6 ||| atBit s.eng.eos.toNat 7
    ||| atBit (errNumber s.status.errCode) 8 ||| atBit s.status.ovr.toNat 12
    ||| atBit s.status.accErr.toNat 13 ||| atBit s.status.frameValid.toNat 14
    ||| atBit s.status.cmdOp.toNat 16

/-- A write of `v` to STATUS: a 1 clears DONE, OVR or ACCERR, and no other bit reacts (R24). -/
def statusW1c (t : Status) (v : Word) : Status :=
  { t with
    done := t.done && !v.getLsbD 1
    ovr := t.ovr && !v.getLsbD 12
    accErr := t.accErr && !v.getLsbD 13 }

/-- The interrupt line: `irq = CTRL.IE AND STATUS.DONE` (R214). -/
def irq (s : State) : Bool := s.ctrl.ie && s.status.done

/-- The output `src_ready`: 1 in the states that take an event (R64). -/
def srcReady (s : State) : Bool := s.eng.fsm.reading

end Sys2Proof.Machine
end

