-- ==== Sys2Proof/Machine/Memory.lean ====
section
/-!
DEFINITION. The storage behind FBUF and DBUF (spec/10_state.md R43, R44; spec/20_memory.md R60, R62, R75):
one list of (window offset, byte) pairs in canonical form. An offset that is not listed holds no written
byte: its contents are unspecified.
-/

namespace Sys2Proof.Machine

/-- The window offsets that are buffer bytes (R60): FBUF 0x1000..0x17FF and DBUF 0x2000..0x27FF. -/
def isBufferAddress (a : Nat) : Bool :=
  (decide (Config.fbufBase ≤ a) && decide (a < Config.fbufBase + Config.fbufSize))
    || (decide (Config.dbufBase ≤ a) && decide (a < Config.dbufBase + Config.dbufSize))

/-- The canonical form: offsets strictly rising, each of them a buffer byte. What an unlisted offset reads
as is "no byte written", which no entry equals. -/
abbrev Memory.wf (m : Memory) : Prop :=
  List.Pairwise (fun p q => p.1 < q.1) m ∧ ∀ c ∈ m, isBufferAddress c.1 = true

/-- The byte written last at offset `a`, if one was written since hardware reset. -/
def memLookup : Memory → Nat → Option Byte
  | [], _ => none
  | (k, b) :: m, a => if k = a then some b else memLookup m a

/-- Write `b` at offset `a`, keeping the offsets strictly rising. -/
def memStore : Memory → Nat → Byte → Memory
  | [], a, b => [(a, b)]
  | (k, c) :: m, a, b =>
    if a < k then (a, b) :: (k, c) :: m
    else if a = k then (a, b) :: m
    else (k, c) :: memStore m a b

/-- What an unlisted offset reads as: the free value of this reset epoch (R43, R44; assumption 3). -/
def unlistedByte (s : State) (a : Nat) : Byte := Config.unwrittenByte s.free.epoch a

/-- The byte at window offset `a` (R62, R75). -/
def byteAt (s : State) (a : Nat) : Byte :=
  match memLookup s.mem a with
  | some b => b
  | none => unlistedByte s a

/-- The window offset of a buffer's byte 0 (R60). -/
def bufBase : Source → Nat
  | .dbuf => Config.dbufBase
  | .fbuf => Config.fbufBase

/-- `buf[i]` (R9). -/
def bufByte (s : State) (src : Source) (i : Nat) : Byte := byteAt s (bufBase src + i)

/-- `buf[start .. start + count)` (R9). -/
def bufSlice (s : State) (src : Source) (start count : Nat) : List Byte :=
  (List.range count).map (fun k => bufByte s src (start + k))

/-- `buf[i] <- b` (R43, R44, R62). -/
def bufStore (s : State) (src : Source) (i : Nat) (b : Byte) : State :=
  { s with mem := memStore s.mem (bufBase src + i) b }

/-- Host word lanes (R62, R68): the byte at the lowest offset is in bits [7:0]. -/
def wordOfLanes (b0 b1 b2 b3 : Byte) : Word := b3 ++ b2 ++ b1 ++ b0

/-- `v[8k+7:8k]` (R62): the byte a word write puts at offset `k`. -/
def laneOfWord (v : Word) (k : Nat) : Byte := v.extractLsb' (8 * k) 8

end Sys2Proof.Machine
end

