-- ==== Sys2Proof/Machine/Ops.lean ====
section
/-!
DEFINITION. The operations that commands and engine steps share: starting and refusing a command
(spec/43_reader_control.md R180), completing one (R181), reporting an error, which is the block's "trap
entry" (spec/60_exceptions.md R216, R217), passing over a recoverable error (R185), and hardware reset
(spec/70_reset_and_hazards.md R240). There is no "trap return" (R218).
-/

namespace Sys2Proof.Machine

/-- `STATUS.OVR <- 1` (R71, R180). -/
def setOvr (s : State) : State := { s with status := { s.status with ovr := true } }

/-- `STATUS.ACCERR <- 1` (R63). -/
def setAccErr (s : State) : State := { s with status := { s.status with accErr := true } }

/-- `DONE <- 0 ; OUTCOME <- NONE ; ERR_CODE <- 0 ; CMD_OP <- op` (R180). -/
def beginCommand (op : BitVec 4) (s : State) : State :=
  { s with status := { s.status with done := false, outcome := .none, errCode := .none, cmdOp := op } }

/-- The LAST_ERR value `code | fatal << 4 | raised << 5` (R41, R216). -/
def lastErrWord (code : ErrCode) (fatal raised : Bool) : Word :=
  atBit (errNumber code) 0 ||| atBit fatal.toNat 4 ||| atBit raised.toNat 5

/-- `log_error(code, fatal, raised)` (R216). -/
def logError (code : ErrCode) (fatal raised : Bool) (s : State) : State :=
  { s with
    regs := { s.regs with
      lastErr := lastErrWord code fatal raised
      logCnt := if raised then s.regs.logCnt else s.regs.logCnt + 1#32 } }

/-- `complete(outcome, code)`, the one completion step of every command (R181). -/
def complete (o : CmdOutcome) (code : ErrCode) (s : State) : State :=
  let t : State :=
    { s with
      eng := { s.eng with fsm := .idle }
      status := { s.status with outcome := o, errCode := code, done := true } }
  match o with
  | .none | .ok | .endOfStream => t
  | .streamError => logError code true true t
  | .error => logError code false true t

/-- `recoverable(code)`: the error policy inside a READ_NEXT (R184, R185). -/
def recoverable (code : ErrCode) (s : State) : State :=
  match s.ctrl.policy with
  | .raise => complete .error code s
  | .logAndContinue =>
    let t := logError code false false s
    { t with eng := { t.eng with need := 0, fsm := .seek } }
  | .ignore => { s with eng := { s.eng with need := 0, fsm := .seek } }

/-- The byte source makes one more event available (R64). After Eos or Err in the same stream it has
nothing more to offer, and the model refuses (spec/93_implementation_defined.md I8). -/
def offerEvent (e : SrcEvent) (s : State) : Host.Outcome State Fault Refusal :=
  if s.out.srcEnded then .refused .offerAfterEnd
  else
    .next { s with
      out := { s.out with src := s.out.src ++ [e], srcEnded := decide (e = .eos ∨ e = .err) } }

/-- The reset input's one atomic step (R240, R241): every register and hidden variable at its reset value,
both buffers unspecified. It takes no byte, what the source offers stays offered (R242), and a new stream
begins. -/
def hardReset (s : State) : State :=
  { State.reset with
    out := { s.out with srcEnded := false }
    free := { s.free with epoch := s.free.epoch + 1 } }

end Sys2Proof.Machine
end

