-- ==== Sys2Proof/Machine/Operands.lean ====
section
/-!
DEFINITION. Operand assembly for the commands (spec/30_encoding.md R84, spec/20_memory.md R70) and the
range checks of a host extraction and a host CRC (spec/40_bitfield.md R112, spec/41_crc.md R125).
-/

namespace Sys2Proof.Machine

/-- The source buffer's logical length L (R84): DBUF_LEN as captured, or FRAME_LEN, which no step changes
while a command is in EXEC. -/
def bufLen (o : Op) (s : State) : Nat :=
  match o.src with
  | .dbuf => o.dbufLen.toNat
  | .fbuf => s.regs.frameLen.toNat

/-- `range_ok_ext(SRC, L, off, n)` (R112), on unbounded naturals. -/
def rangeOkExt (src : Source) (len off n : Nat) : Bool :=
  !(decide (src = .dbuf) && decide (Config.dbufSize < len))
    && decide (1 ≤ n) && decide (n ≤ 64) && decide (bytesForBits (off + n) ≤ len)

/-- `range_ok_crc(SRC, L, start, count)` (R125), on unbounded naturals. -/
def rangeOkCrc (src : Source) (len start count : Nat) : Bool :=
  !(decide (src = .dbuf) && decide (Config.dbufSize < len)) && decide (start + count ≤ len)

/-- Write RES_HI:RES_LO (R30). -/
def setResult (lo hi : Word) (s : State) : State :=
  { s with regs := { s.regs with resLo := lo, resHi := hi } }

/-- The range-check failure of the three EXEC commands: both result registers 0, then OUT_OF_RANGE
(R113, R126, R127). -/
def failRange (s : State) : State := complete .error .outOfRange (setResult 0#32 0#32 s)

/-- Capture the operands and enter EXEC (R70, R180). The number of engine steps until completion is the
next free value (R248; assumption 2). -/
def enterExec (k : ExecKind) (src : Source) (crcw : CrcSel) (s : State) : State :=
  { s with
    eng := { s.eng with
      fsm := .exec
      op := some
        { kind := k, src := src, crcw := crcw, arg0 := s.regs.arg0, arg1 := s.regs.arg1,
          expected := s.regs.expected, dbufLen := s.regs.dbufLen } }
    free := { s.free with work := Config.execLatency s.free.draws, draws := s.free.draws + 1 } }

/-- The CMD write of an EXEC command: refused with OVR while BUSY, started otherwise (R180). -/
def startExec (k : ExecKind) (op : BitVec 4) (src : Source) (crcw : CrcSel) (s : State) : State :=
  if busy s then setOvr s else enterExec k src crcw (beginCommand op s)

end Sys2Proof.Machine
end

