-- ==== Sys2Proof/Machine/FrameAssembler.lean ====
section
/-!
DEFINITION. The frame state machine (spec/42_frame_assembler.md R140 to R157): one definition per step
rule and per sub-procedure. Each takes at most one event of the byte source.
-/

namespace Sys2Proof.Machine

/-- `auth_len(EAF, AI, EALC)` (R94). -/
def authLen (eaf : Bool) (ai ealc : BitVec 3) : Nat :=
  if !eaf || decide (ai.toNat ≤ 1) then 0
  else
    match ealc.toNat with
    | 0 => 8
    | 1 => 12
    | 2 => 16
    | 3 => 32
    | 4 => 64
    | _ => 0

/-- An unmapped length code that is in use: EAF = 1, AI > 1 and EALC in 5..7 (R147, R157). -/
def ealUnmapped (eaf : Bool) (ai ealc : BitVec 3) : Bool :=
  eaf && decide (1 < ai.toNat) && decide (5 ≤ ealc.toNat)

/-- `BYTE_CNT <- BYTE_CNT + 1` (R40, R47). -/
def countByte (s : State) : State := { s with eng := { s.eng with cursor := s.eng.cursor + 1 } }

/-- `FBUF[0] <- b ; pos <- 1 ; need <- 3 ; fsm <- FS`: a frame attempt starts (R141). -/
def startAttempt (b : Byte) (s : State) : State :=
  { s with
    mem := memStore s.mem (bufBase .fbuf + 0) b
    eng := { s.eng with pos := 1, need := 3, fsm := .fs } }

/-- `DISCARD_CNT <- DISCARD_CNT + 1` (R40, R141). -/
def countDiscard (s : State) : State :=
  { s with regs := { s.regs with discardCnt := s.regs.discardCnt + 1#32 } }

/-- SEEK with Byte(b) (R141). -/
def seekByte (b : Byte) (s : State) : State :=
  if b = Config.preamble then startAttempt b (countByte s)
  else if s.ctrl.upe then recoverable .unknownProtocol (countDiscard (countByte s))
  else countDiscard (countByte s)

/-- `need <- n ; fsm <- S`: the next chunk. -/
def enterChunk (f : Fsm) (n : Nat) (s : State) : State :=
  { s with eng := { s.eng with fsm := f, need := n } }

/-- The latches and HDR_FS from the three frame-start bytes (R143, R97). -/
def decodeFs (s : State) : State :=
  let fs := bufSlice s .fbuf 1 3
  { s with
    eng := { s.eng with
      fPl := BitVec.ofNat 10 (ext fs 7 10)
      fEaf := decide (ext fs 17 1 = 1)
      fCt := crcOfCode (BitVec.ofNat 2 (ext fs 18 2)) }
    regs := { s.regs with
      hdrFs := regField (ext fs 0 7) 0 ||| regField (ext fs 17 1) 7 ||| regField (ext fs 7 10) 8
        ||| regField (ext fs 18 2) 20 ||| regField (ext fs 20 4) 24 } }

/-- chunk_end(FS) (R143). -/
def chunkEndFs (s : State) : State := enterChunk .pd 4 (decodeFs s)

/-- `FRAME_LEN <- pos` (R31). -/
def recordLength (s : State) : State :=
  { s with regs := { s.regs with frameLen := BitVec.ofNat 32 s.eng.pos } }

/-- `EAL_UNMAPPED_CNT <- EAL_UNMAPPED_CNT + 1` (R147). -/
def countUnmapped (s : State) : State :=
  { s with regs := { s.regs with ealUnmappedCnt := s.regs.ealUnmappedCnt + 1#32 } }

/-- `f_auth <- n ; AUTH_LEN <- n` (R147). -/
def setAuth (n : Nat) (s : State) : State :=
  { s with
    eng := { s.eng with fAuth := n }
    regs := { s.regs with authLen := BitVec.ofNat 32 n } }

/-- `AUTH_LEN <- 0 ; FRAME_LEN <- pos ; recoverable(EAL_UNMAPPED)` (R147, R157). -/
def strictError (s : State) : State :=
  recoverable .ealUnmapped
    { s with regs := { s.regs with authLen := 0#32, frameLen := BitVec.ofNat 32 s.eng.pos } }

/-- The chunk after the payload: the embedded authentication if it has a byte, else the trailer (R147). -/
def enterAuth (s : State) : State :=
  let n := authLen s.eng.fEaf s.eng.fAi s.eng.fEalc
  if 0 < n then enterChunk .auth n (setAuth n s) else enterChunk .crc (crcBytes s.eng.fCt) (setAuth n s)

/-- The embedded-auth decision `payload_done()` (R147, R157). -/
def payloadDone (s : State) : State :=
  if ealUnmapped s.eng.fEaf s.eng.fAi s.eng.fEalc then
    if s.ctrl.strictEal then strictError (countUnmapped s) else enterAuth (countUnmapped s)
  else enterAuth s

/-- `enter_payload()`, the zero-length rule (R151). -/
def enterPayload (s : State) : State :=
  if 0 < s.eng.fPl.toNat then enterChunk .payload s.eng.fPl.toNat s else payloadDone s

/-- The header registers of the payload descriptor: the field decodes of `pd_done()` (R146, R97). -/
def decodePd (s : State) : State :=
  let pd := bufSlice s .fbuf 4 (s.eng.pos - 4)
  let t := s.eng.fTtt.toNat
  let e := 32 + 16 * t
  let ai := if s.eng.fEaf then ext pd (e + 10) 3 else 0
  let ealc := if s.eng.fEaf then ext pd (e + 13) 3 else 0
  { s with
    eng := { s.eng with fAi := BitVec.ofNat 3 ai, fEalc := BitVec.ofNat 3 ealc }
    regs := { s.regs with
      hdrPd := regField (ext pd 0 4) 0 ||| regField t 4 ||| regField (ext pd (21 + 16 * t) 7) 8
        ||| regField (ext pd (28 + 16 * t) 4) 16
      hdrTt := BitVec.ofNat 32 (ext pd 5 (16 + 16 * t))
      hdrEa :=
        if s.eng.fEaf then
          regField (ext pd e 4) 0 ||| regField (ext pd (e + 4) 6) 4 ||| regField ai 10
            ||| regField ealc 13 ||| regField 1 16
        else 0#32
      payloadOff := BitVec.ofNat 32 s.eng.pos } }

/-- `pd_done()` (R146). -/
def pdDone (s : State) : State := enterPayload (decodePd s)

/-- `f_ttt <- ext(FBUF[4..8), 4, 1)` (R144). -/
def latchTtt (s : State) : State :=
  { s with eng := { s.eng with fTtt := decide (ext (bufSlice s .fbuf 4 4) 4 1 = 1) } }

/-- `if f_eaf = 1: need <- 2 ; fsm <- PD_EA, else pd_done()` (R144, R145). -/
def enterExtension (s : State) : State := if s.eng.fEaf then enterChunk .pdEa 2 s else pdDone s

/-- chunk_end(PD) (R144). -/
def chunkEndPd (s : State) : State :=
  if (latchTtt s).eng.fTtt then enterChunk .pdTt 2 (latchTtt s) else enterExtension (latchTtt s)

/-- chunk_end(PD_TT) (R145). -/
def chunkEndPdTt (s : State) : State := enterExtension s

/-- The received trailer `BE(FBUF[pos-k .. pos))`, `k = f_ct + 1` (R149). -/
def receivedCrc (s : State) : Word :=
  BitVec.ofNat 32 (beNat (bufSlice s .fbuf (s.eng.pos - crcBytes s.eng.fCt) (crcBytes s.eng.fCt)))

/-- The CRC of the core bytes `FBUF[1 .. pos-k)` (R124, R149, R155). -/
def coreCrc (s : State) : Word :=
  crcWord s.eng.fCt (bufSlice s .fbuf 1 (s.eng.pos - crcBytes s.eng.fCt - 1))

/-- CRC_RX, FRAME_LEN, CRC_CALC, CRC_CHECKED and CRC_OK at the last trailer byte (R149). -/
def recordCrc (s : State) : State :=
  { s with
    regs := { s.regs with
      crcRx := receivedCrc s
      frameLen := BitVec.ofNat 32 s.eng.pos
      crcCalc := if s.ctrl.crcEn then coreCrc s else 0#32 }
    status := { s.status with
      crcChecked := s.ctrl.crcEn
      crcOk := s.ctrl.crcEn && decide (coreCrc s = receivedCrc s) } }

/-- `deliver()` (R149). -/
def deliver (s : State) : State :=
  complete .ok .none
    { s with
      status := { s.status with frameValid := true }
      regs := { s.regs with frameCnt := s.regs.frameCnt + 1#32 } }

/-- `crc_error()` (R150). -/
def crcError (s : State) : State :=
  recoverable .crcMismatch { s with regs := { s.regs with crcErrCnt := s.regs.crcErrCnt + 1#32 } }

/-- chunk_end(CRC), the source's FRAME_COMPLETE (R149). -/
def chunkEndCrc (s : State) : State :=
  if s.ctrl.crcEn = true ∧ coreCrc s ≠ receivedCrc s then crcError (recordCrc s)
  else deliver (recordCrc s)

/-- chunk_end(S): the last byte of the current chunk has been taken (R142, R143 to R149). -/
def chunkEnd (s : State) : State :=
  match s.eng.fsm with
  | .fs => chunkEndFs s
  | .pd => chunkEndPd s
  | .pdTt => chunkEndPdTt s
  | .pdEa => pdDone s
  | .payload => payloadDone s
  | .auth => enterChunk .crc (crcBytes s.eng.fCt) s
  | .crc => chunkEndCrc s
  | .idle | .exec | .seek => s

/-- `BYTE_CNT <- BYTE_CNT + 1 ; FBUF[pos] <- b ; pos <- pos + 1 ; need <- need - 1` (R142). -/
def takeChunkByte (b : Byte) (s : State) : State :=
  let t := bufStore s .fbuf s.eng.pos b
  { t with
    eng := { t.eng with cursor := t.eng.cursor + 1, pos := t.eng.pos + 1, need := t.eng.need - 1 } }

/-- A chunk state with Byte(b) (R142). In a state that breaks R142's entry invariant the spec gives no
step, and the model stops. -/
def chunkByte (b : Byte) (s : State) : Host.Outcome State Fault Refusal :=
  if s.eng.need = 0 ∨ Config.fbufSize ≤ s.eng.pos then .fault .frameStateBroken
  else
    let t := takeChunkByte b s
    .next (if t.eng.need = 0 then chunkEnd t else t)

/-- `eos <- 1` (R152, R153, R186); EOS_LATCHED mirrors it. -/
def latchEos (s : State) : State := { s with eng := { s.eng with eos := true } }

/-- The stream ends, by Eos (`eof`) or by Err, in a reading state: between frames (R153) or inside one
(R152). -/
def endStream (eof : Bool) (s : State) : State :=
  if s.eng.fsm = .seek then
    if eof then complete .endOfStream .none (latchEos s)
    else complete .streamError .sourceError (latchEos s)
  else complete .streamError (if eof then .eof else .sourceError) (recordLength (latchEos s))

/-- A reading state takes one event (R141, R142, R152, R153). -/
def takeEvent (e : SrcEvent) (s : State) : Host.Outcome State Fault Refusal :=
  match e with
  | .byte b => if s.eng.fsm = .seek then .next (seekByte b s) else chunkByte b s
  | .eos => .next (endStream true s)
  | .err => .next (endStream false s)

end Sys2Proof.Machine
end

