-- ==== Sys2Proof/Machine/Control.lean ====
section
/-!
DEFINITION. The control commands NOP, ABORT and SOFT_RESET (spec/43_reader_control.md R182, R186, R187),
and the reader's READ_NEXT (R183). SRC and CRCW are ignored by all four (R81).
-/

namespace Sys2Proof.Machine

/-- NOP (R182): it completes in its start step. -/
def execNop (_src : Source) (_crcw : CrcSel) (s : State) : Host.Outcome State Fault Refusal :=
  .next (if busy s then setOvr s else complete .ok .none (beginCommand 0#4 s))

/-- `FRAME_VALID <- 0 ; CRC_CHECKED <- 0 ; CRC_OK <- 0` (R183). -/
def clearFrameFlags (s : State) : State :=
  { s with status := { s.status with frameValid := false, crcChecked := false, crcOk := false } }

/-- `fsm <- SEEK` (R183). -/
def enterSeek (s : State) : State := { s with eng := { s.eng with fsm := .seek } }

/-- The start step of READ_NEXT after R180 (R183). -/
def startRead (s : State) : State :=
  if s.eng.eos then complete .endOfStream .none (clearFrameFlags s) else enterSeek (clearFrameFlags s)

/-- READ_NEXT (R183). The steps that follow its start are the frame state machine's. -/
def execReadNext (_src : Source) (_crcw : CrcSel) (s : State) : Host.Outcome State Fault Refusal :=
  .next (if busy s then setOvr s else startRead (beginCommand 1#4 s))

/-- ABORT (R186). While a READ_NEXT is reading it acts as an Eos taken in the current state, and takes no
byte; while idle it ends the stream; while an EXEC command runs it is refused. DEDUCED (assumption 18): the
idle case follows R180 and R186, not R247's aside that it is refused with OVR. -/
def execAbort (_src : Source) (_crcw : CrcSel) (s : State) : Host.Outcome State Fault Refusal :=
  .next
    (if s.eng.fsm.reading then endStream true s
     else if busy s then setOvr s
     else complete .ok .none (latchEos (beginCommand 5#4 s)))

/-- The reset part of `soft_reset()` (R187, R241): every register but CTRL, and every hidden variable. -/
def clearForSoftReset (s : State) : State :=
  { s with
    status := { Status.reset with cmdOp := 6#4 }
    regs := Regs.reset
    eng := Engine.reset
    out := { s.out with srcEnded := false } }

/-- `soft_reset()` (R187, R241): registers and hidden state at their reset values, CTRL and both buffers
kept, CMD_OP 6, completed with OK. A new stream begins; what the source offers stays offered (R242). -/
def softReset (s : State) : State := complete .ok .none (clearForSoftReset s)

/-- SOFT_RESET (R187), accepted whether BUSY is 0 or 1. -/
def execSoftReset (_src : Source) (_crcw : CrcSel) (s : State) : Host.Outcome State Fault Refusal :=
  .next (softReset s)

end Sys2Proof.Machine
end

