-- ==== Sys2Proof/Machine/CrcCommands.lean ====
section
/-!
DEFINITION. CRC_COMPUTE and CRC_VALIDATE (spec/41_crc.md R126, R127): their start at the CMD write and
their completing engine steps. CTRL.CRC_EN and CTRL.POLICY do not apply (R126).
-/

namespace Sys2Proof.Machine

/-- CRC_COMPUTE at the CMD write (R126, R180). -/
def execCrcCompute (src : Source) (crcw : CrcSel) (s : State) : Host.Outcome State Fault Refusal :=
  .next (startExec .crcCompute 3#4 src crcw s)

/-- CRC_VALIDATE at the CMD write (R127, R180). -/
def execCrcValidate (src : Source) (crcw : CrcSel) (s : State) : Host.Outcome State Fault Refusal :=
  .next (startExec .crcValidate 4#4 src crcw s)

/-- The CRC of the operand range, zero-extended to 32 bits (R126, R127). -/
def operandCrc (o : Op) (s : State) : Word :=
  crcWord o.crcw (bufSlice s o.src o.arg0.toNat o.arg1.toNat)

/-- The completing step of CRC_COMPUTE (R125, R126). -/
def finishCrcCompute (o : Op) (s : State) : State :=
  if rangeOkCrc o.src (bufLen o s) o.arg0.toNat o.arg1.toNat then
    complete .ok .none (setResult (operandCrc o s) 0#32 s)
  else failRange s

/-- The completing step of CRC_VALIDATE (R123, R125, R127): a full 32-bit compare, and a mismatch is no
error. -/
def finishCrcValidate (o : Op) (s : State) : State :=
  if rangeOkCrc o.src (bufLen o s) o.arg0.toNat o.arg1.toNat then
    complete .ok .none
      (setResult (if operandCrc o s = o.expected then 1#32 else 0#32) (operandCrc o s) s)
  else failRange s

end Sys2Proof.Machine
end

