-- ==== Sys2Proof/Machine/Extract.lean ====
section
/-!
DEFINITION. EXTRACT (spec/40_bitfield.md R113): its start at the CMD write and its completing engine step.
-/

namespace Sys2Proof.Machine

/-- EXTRACT at the CMD write (R113, R180). -/
def execExtract (src : Source) (crcw : CrcSel) (s : State) : Host.Outcome State Fault Refusal :=
  .next (startExec .extract 2#4 src crcw s)

/-- `ext(buf[0..L), off, n)` of the captured operands, as a 64-bit value (R113). -/
def extractValue (o : Op) (s : State) : BitVec 64 :=
  BitVec.ofNat 64 (ext (bufSlice s o.src 0 (bufLen o s)) o.arg0.toNat o.arg1.toNat)

/-- The completing step of EXTRACT (R112, R113). -/
def finishExtract (o : Op) (s : State) : State :=
  if rangeOkExt o.src (bufLen o s) o.arg0.toNat o.arg1.toNat then
    complete .ok .none
      (setResult ((extractValue o s).extractLsb' 0 32) ((extractValue o s).extractLsb' 32 32) s)
  else failRange s

end Sys2Proof.Machine
end

