-- ==== Sys2Proof/Machine/Dispatch.lean ====
section
/-!
DEFINITION. One arm per command: the meaning of a CMD write that carries it (spec/43_reader_control.md R180).
-/

namespace Sys2Proof.Machine

def exec (i : Instr) (s : State) : Host.Outcome State Fault Refusal :=
  match i with
  | .nop src crcw => Sys2Proof.Machine.execNop src crcw s
  | .readNext src crcw => Sys2Proof.Machine.execReadNext src crcw s
  | .extract src crcw => Sys2Proof.Machine.execExtract src crcw s
  | .crcCompute src crcw => Sys2Proof.Machine.execCrcCompute src crcw s
  | .crcValidate src crcw => Sys2Proof.Machine.execCrcValidate src crcw s
  | .abort src crcw => Sys2Proof.Machine.execAbort src crcw s
  | .softReset src crcw => Sys2Proof.Machine.execSoftReset src crcw s

end Sys2Proof.Machine
end

