-- ==== Sys2Proof/Machine/Bus.lean ====
section
/-!
DEFINITION. The host bus (spec/20_memory.md R60 to R63, R68, R69, R71; the register map of
spec/10_state.md R21): which accesses are admitted, what a read returns, and what a write does.
-/

namespace Sys2Proof.Machine

/-- The window offset of a register (R21). -/
def regOffset : Reg → Nat
  | .ctrl => 0x000
  | .cmd => 0x004
  | .status => 0x008
  | .arg0 => 0x00C
  | .arg1 => 0x010
  | .expected => 0x014
  | .dbufLen => 0x018
  | .resLo => 0x01C
  | .resHi => 0x020
  | .frameLen => 0x024
  | .hdrFs => 0x028
  | .hdrPd => 0x02C
  | .hdrTt => 0x030
  | .hdrEa => 0x034
  | .authLen => 0x038
  | .payloadOff => 0x03C
  | .crcRx => 0x040
  | .crcCalc => 0x044
  | .frameCnt => 0x048
  | .discardCnt => 0x04C
  | .crcErrCnt => 0x050
  | .ealUnmappedCnt => 0x054
  | .logCnt => 0x058
  | .byteCnt => 0x05C
  | .lastErr => 0x060
  | .preamble => 0x064

/-- The registers in the order of the map (R21). -/
def allRegs : List Reg :=
  [.ctrl, .cmd, .status, .arg0, .arg1, .expected, .dbufLen, .resLo, .resHi, .frameLen, .hdrFs, .hdrPd,
   .hdrTt, .hdrEa, .authLen, .payloadOff, .crcRx, .crcCalc, .frameCnt, .discardCnt, .crcErrCnt,
   .ealUnmappedCnt, .logCnt, .byteCnt, .lastErr, .preamble]

/-- The register at a window offset, if there is one (R21). -/
def regAt (off : Nat) : Option Reg := allRegs.find? (fun r => regOffset r == off)

/-- What an admitted access reaches: a whole register, or one or four bytes of a buffer window. -/
inductive Target where
  | reg (r : Reg)
  | byte (b : Source) (i : Nat)
  | word (b : Source) (i : Nat)
  deriving DecidableEq, Repr

/-- The buffer window an offset lies in, with the index in it (R60, R62). -/
def windowAt (off : Nat) : Option (Source × Nat) :=
  if Config.fbufBase ≤ off ∧ off < Config.fbufBase + Config.fbufSize then
    some (.fbuf, off - Config.fbufBase)
  else if Config.dbufBase ≤ off ∧ off < Config.dbufBase + Config.dbufSize then
    some (.dbuf, off - Config.dbufBase)
  else none

/-- The target of an access, or none if the access is not admitted (R61, R62, R63): a window admits one
byte anywhere and four bytes at a multiple of 4; a register admits four bytes at its offset. -/
def accessTarget (off : BitVec 14) (width : Nat) : Option Target :=
  match windowAt off.toNat with
  | some (b, i) =>
    if width = 1 then some (.byte b i)
    else if width = 4 ∧ off.toNat % 4 = 0 then some (.word b i)
    else none
  | none => if width = 4 then (regAt off.toNat).map .reg else none

/-- What a read of a register returns (R22 to R42). -/
def regValue (s : State) : Reg → Word
  | .ctrl => ctrlWord s.ctrl
  | .cmd => 0#32
  | .status => statusWord s
  | .arg0 => s.regs.arg0
  | .arg1 => s.regs.arg1
  | .expected => s.regs.expected
  | .dbufLen => s.regs.dbufLen
  | .resLo => s.regs.resLo
  | .resHi => s.regs.resHi
  | .frameLen => s.regs.frameLen
  | .hdrFs => s.regs.hdrFs
  | .hdrPd => s.regs.hdrPd
  | .hdrTt => s.regs.hdrTt
  | .hdrEa => s.regs.hdrEa
  | .authLen => s.regs.authLen
  | .payloadOff => s.regs.payloadOff
  | .crcRx => s.regs.crcRx
  | .crcCalc => s.regs.crcCalc
  | .frameCnt => s.regs.frameCnt
  | .discardCnt => s.regs.discardCnt
  | .crcErrCnt => s.regs.crcErrCnt
  | .ealUnmappedCnt => s.regs.ealUnmappedCnt
  | .logCnt => s.regs.logCnt
  | .byteCnt => BitVec.ofNat 32 s.eng.cursor
  | .lastErr => s.regs.lastErr
  | .preamble => Config.preamble.setWidth 32

/-- The value an admitted read returns (R61, R62). -/
def targetValue (s : State) : Target → Word
  | .reg r => regValue s r
  | .byte b i => (bufByte s b i).setWidth 32
  | .word b i =>
    wordOfLanes (bufByte s b i) (bufByte s b (i + 1)) (bufByte s b (i + 2)) (bufByte s b (i + 3))

/-- A host read (R61, R62, R63, R69): an access that is not admitted returns 0 and sets ACCERR. -/
def busRead (off : BitVec 14) (width : Nat) (s : State) : State :=
  match accessTarget off width with
  | some t => { s with out := { s.out with hostRead := some (targetValue s t) } }
  | none => setAccErr { s with out := { s.out with hostRead := some 0#32 } }

/-- A write that BUSY guards: lost, with OVR set, while a command runs (R71, R244). -/
def guardedWrite (s t : State) : State := if busy s then setOvr s else t

/-- A word written to CMD (R180): a command runs by its meaning; an illegal word completes at once with
ILLEGAL_COMMAND while idle and is refused with OVR while busy (R83). -/
def cmdWrite (w : Word) (s : State) : Host.Outcome State Fault Refusal :=
  match decode w with
  | .ok i => exec i s
  | .error _ =>
    .next
      (if busy s then setOvr s else complete .error .illegalCommand (beginCommand (opField w) s))

/-- A four-byte write to a register (R61, R22, R24 to R29, R71); a write to an RO register has no effect. -/
def regWrite (r : Reg) (v : Word) (s : State) : Host.Outcome State Fault Refusal :=
  match r with
  | .ctrl => .next (guardedWrite s { s with ctrl := ctrlWrite s.ctrl v })
  | .cmd => cmdWrite v s
  | .status => .next { s with status := statusW1c s.status v }
  | .arg0 => .next (guardedWrite s { s with regs := { s.regs with arg0 := v } })
  | .arg1 => .next (guardedWrite s { s with regs := { s.regs with arg1 := v } })
  | .expected => .next (guardedWrite s { s with regs := { s.regs with expected := v } })
  | .dbufLen => .next (guardedWrite s { s with regs := { s.regs with dbufLen := v } })
  | .resLo | .resHi | .frameLen | .hdrFs | .hdrPd | .hdrTt | .hdrEa | .authLen | .payloadOff | .crcRx
  | .crcCalc | .frameCnt | .discardCnt | .crcErrCnt | .ealUnmappedCnt | .logCnt | .byteCnt | .lastErr
  | .preamble => .next s

/-- The four byte writes of a word write to a window (R62). -/
def storeWord (s : State) (b : Source) (i : Nat) (v : Word) : State :=
  bufStore
    (bufStore
      (bufStore (bufStore s b i (laneOfWord v 0)) b (i + 1) (laneOfWord v 1))
      b (i + 2) (laneOfWord v 2))
    b (i + 3) (laneOfWord v 3)

/-- A host write (R61, R62, R63, R71): FBUF is read-only to the host, so a write there is ignored. -/
def busWrite (off : BitVec 14) (width : Nat) (v : Word) (s : State) :
    Host.Outcome State Fault Refusal :=
  match accessTarget off width with
  | some (.reg r) => regWrite r v s
  | some (.byte .fbuf _) => .next s
  | some (.word .fbuf _) => .next s
  | some (.byte .dbuf i) => .next (guardedWrite s (bufStore s .dbuf i (v.extractLsb' 0 8)))
  | some (.word .dbuf i) => .next (guardedWrite s (storeWord s .dbuf i v))
  | none => .next (setAccErr s)

end Sys2Proof.Machine
end

