-- ==== Sys2Proof/Machine/Engine.lean ====
section
/-!
DEFINITION. One step of the SFB engine (spec/00_scope.md R10): nothing in IDLE, one step of a command in
EXEC, and one source event in a reading state, if one is offered (spec/20_memory.md R64, R66).
-/

namespace Sys2Proof.Machine

/-- The completing step of the command in EXEC (R113, R126, R127). -/
def finishExec (o : Op) (s : State) : State :=
  match o.kind with
  | .extract => finishExtract o s
  | .crcCompute => finishCrcCompute o s
  | .crcValidate => finishCrcValidate o s

/-- An engine step in EXEC (R180, R248): the latency passes, then the command completes. -/
def execStep (s : State) : Host.Outcome State Fault Refusal :=
  match s.eng.op with
  | none => .fault .execWithoutOperands
  | some o =>
    match s.free.work with
    | 0 => .next (finishExec o s)
    | n + 1 => .next { s with free := { s.free with work := n } }

/-- An engine step in a reading state: it takes the offered event, or waits (R64, R66). -/
def readStep (s : State) : Host.Outcome State Fault Refusal :=
  match s.out.src with
  | [] => .next s
  | e :: rest => takeEvent e { s with out := { s.out with src := rest } }

/-- One step of the engine. Where the engine has no step the state stays as it is. -/
def engineStep (s : State) : Host.Outcome State Fault Refusal :=
  match s.eng.fsm with
  | .idle => .next s
  | .exec => execStep s
  | .seek | .fs | .pd | .pdTt | .pdEa | .payload | .auth | .crc => readStep s

end Sys2Proof.Machine
end

