-- ==== Sys2Proof/Machine/Step.lean ====
section
/-!
DEFINITION. One step of the whole machine (spec/00_scope.md R10): the agent that moves is the head of
`out.inputs`; with nothing scheduled the engine moves. Every interleaving of R10 is some such list.
-/

namespace Sys2Proof.Machine

/-- Take the head off the list of what the outside does next. -/
def State.pop (s : State) (rest : List Input) : State := { s with out := { s.out with inputs := rest } }

/-- One atomic step (R10, R69, R72). -/
def step (s : State) : Host.Outcome State Fault Refusal :=
  match s.out.inputs with
  | [] => engineStep s
  | .tick :: rest => engineStep (s.pop rest)
  | .read off width :: rest => .next (busRead off width (s.pop rest))
  | .write off width v :: rest => busWrite off width v (s.pop rest)
  | .offer e :: rest => offerEvent e (s.pop rest)
  | .rst :: rest => .next (hardReset (s.pop rest))

/-- `s` with the host's next access the 4-byte write of a command word to CMD (offset 0x004, R25): a
command comes to the block in no other way, so the very next step decodes and runs it. -/
def State.withFetchWord (s : State) (nbits w : Nat) : State :=
  { s with
    out := { s.out with
      inputs := .write 0x004#14 4 (BitVec.ofNat 32 (w % 2 ^ nbits)) :: s.out.inputs } }

end Sys2Proof.Machine
end

