-- ==== Sys2Proof/Machine/HostAsm.lean ====
section
/-!
DEFINITION. The host pseudo-assembly of spec/30_encoding.md R85 and R86: each form as the bus accesses it
stands for.
-/

namespace Sys2Proof.Machine

/-- The offset of a register as a window offset. -/
def regOff (r : Reg) : BitVec 14 := BitVec.ofNat 14 (regOffset r)

/-- The offset of byte `i` of a buffer window. -/
def bufOff (b : Source) (i : BitVec 11) : BitVec 14 := BitVec.ofNat 14 (bufBase b + i.toNat)

/-- `wr REG, value` (R85). -/
def wrReg (r : Reg) (v : Word) : Input := .write (regOff r) 4 v

/-- The accesses of one pseudo-instruction (R85, R86). -/
def expand : Pseudo → List Input
  | .wr r v => [wrReg r v]
  | .rd r => [.read (regOff r) 4]
  | .wrb i v => [.write (bufOff .dbuf i) 1 (v.setWidth 32)]
  | .wrw i v => [.write (bufOff .dbuf i) 4 v]
  | .rdb b i => [.read (bufOff b i) 1]
  | .nop => [wrReg .cmd 0x00000000#32]
  | .readNext => [wrReg .cmd 0x00000001#32]
  | .extract src off n =>
    [wrReg .arg0 off, wrReg .arg1 n, wrReg .cmd (encode (.extract src .crc8))]
  | .crc src w start count =>
    [wrReg .arg0 start, wrReg .arg1 count, wrReg .cmd (encode (.crcCompute src w))]
  | .crcv src w start count exp =>
    [wrReg .arg0 start, wrReg .arg1 count, wrReg .expected exp, wrReg .cmd (encode (.crcValidate src w))]
  | .abort => [wrReg .cmd 0x00000005#32]
  | .softReset => [wrReg .cmd 0x00000006#32]
  | .wait polls => List.replicate polls (.read (regOff .status) 4)
  | .ack => [wrReg .status 0x00000002#32]

/-- A host program: its accesses in order (R85). -/
def assemble (p : List Pseudo) : List Input := p.flatMap expand

end Sys2Proof.Machine
end

