-- ==== Sys2Proof/Machine/Wire.lean ====
section
/-!
DEFINITION. The SPARTN wire format from the sender's side (spec/30_encoding.md R90 to R96): a frame's
bytes, written as the concatenation of its fields in stream order, and the header registers its fields
stand for (spec/10_state.md R32 to R37).
-/

namespace Sys2Proof.Machine

/-- EAF: 1 exactly when the extension is present (R92). -/
def frameEaf (f : Frame) : Bool := f.ext.isSome

/-- TTT (R91). -/
def frameTtt (f : Frame) : Bool :=
  match f.timeTag with
  | .short _ => false
  | .long _ => true

/-- The 24 frame-start bits (R90). -/
def frameStartBits (f : Frame) : BitVec 24 :=
  f.messageType ++ BitVec.ofNat 10 f.payload.length ++ BitVec.ofBool (frameEaf f)
    ++ BitVec.ofNat 2 (crcCode f.crcType) ++ f.frameCrc

/-- The payload-descriptor base, 4 or 6 bytes (R91). -/
def pdBaseBytes (f : Frame) : List Byte :=
  match f.timeTag with
  | .short t =>
    bytesBE 4
      ((f.messageSubtype ++ 0#1 ++ t ++ f.solutionId ++ f.solutionProcId : BitVec (4 + 1 + 16 + 7 + 4)).toNat)
  | .long t =>
    bytesBE 6
      ((f.messageSubtype ++ 1#1 ++ t ++ f.solutionId ++ f.solutionProcId : BitVec (4 + 1 + 32 + 7 + 4)).toNat)

/-- The 2-byte extension, if EAF = 1 (R92). -/
def extBytes (f : Frame) : List Byte :=
  match f.ext with
  | none => []
  | some e =>
    bytesBE 2
      ((e.encryptionId ++ e.encryptionSequence ++ e.authIndicator ++ e.authLengthCode :
        BitVec (4 + 6 + 3 + 3)).toNat)

/-- The core bytes: what the CRC covers (R95, R124). -/
def coreBytes (f : Frame) : List Byte :=
  bytesBE 3 (frameStartBits f).toNat ++ pdBaseBytes f ++ extBytes f ++ f.payload ++ f.auth

/-- The frame with a given trailer value (R95, R96). -/
def frameWithTrailer (f : Frame) (crcValue : Word) : List Byte :=
  Config.preamble :: coreBytes f ++ bytesBE (crcBytes f.crcType) crcValue.toNat

/-- The frame with its correct trailer under CRC_PARAMS (R95, R96). -/
def encodeFrame (f : Frame) : List Byte := frameWithTrailer f (crcWord f.crcType (coreBytes f))

/-- HDR_FS of the frame's fields (R32). -/
def frameHdrFs (f : Frame) : Word :=
  0#4 ++ f.frameCrc ++ 0#2 ++ BitVec.ofNat 2 (crcCode f.crcType) ++ 0#2
    ++ BitVec.ofNat 10 f.payload.length ++ BitVec.ofBool (frameEaf f) ++ f.messageType

/-- HDR_PD of the frame's fields (R33). -/
def frameHdrPd (f : Frame) : Word :=
  0#12 ++ f.solutionProcId ++ 0#1 ++ f.solutionId ++ 0#3 ++ BitVec.ofBool (frameTtt f) ++ f.messageSubtype

/-- HDR_TT of the frame's time tag (R34). -/
def frameHdrTt (f : Frame) : Word :=
  match f.timeTag with
  | .short t => t.setWidth 32
  | .long t => t

/-- HDR_EA of the frame's extension, 0 without one (R35). -/
def frameHdrEa (f : Frame) : Word :=
  match f.ext with
  | none => 0#32
  | some e => 0#15 ++ 1#1 ++ e.authLengthCode ++ e.authIndicator ++ e.encryptionSequence ++ e.encryptionId

/-- PAYLOAD_OFF of the frame: `1 + 3 + 4 + 2*TTT + 2*EAF` (R37). -/
def framePayloadOff (f : Frame) : Nat := 8 + 2 * (frameTtt f).toNat + 2 * (frameEaf f).toNat

/-- The frame's total length N (R96). -/
def frameLength (f : Frame) : Nat :=
  1 + 3 + 4 + 2 * (frameTtt f).toNat + 2 * (frameEaf f).toNat + f.payload.length + f.authBytes
    + crcCode f.crcType + 1

end Sys2Proof.Machine
end

