-- ==== Sys2Proof/Safety.lean ====
section
/-!
DEFINITION. What claims call a safe run, and the invariant of the machine: what the spec says of every
state a run reaches (spec/10_state.md R21, R24, R31 to R37, R43, R45; spec/42_frame_assembler.md R142,
R151; spec/30_encoding.md R101), stated over the model's state.
-/

namespace Sys2Proof.Machine

/-- The machine did not stop with a fault. -/
def notFault : Host.Outcome State Fault Refusal → Bool
  | .fault _ => false
  | .next _ | .refused _ => true

/-- The machine goes on. -/
def isNext : Host.Outcome State Fault Refusal → Bool
  | .next _ => true
  | .fault _ | .refused _ => false

/-- `n` engine steps in a row, with nothing else moving (R10, R249). -/
def engineRun : Nat → State → Host.Outcome State Fault Refusal
  | 0, s => .next s
  | n + 1, s =>
    match engineStep s with
    | .next t => engineRun n t
    | .fault r => .fault r
    | .refused r => .refused r

/-- The FBUF index just past the payload descriptor, by the latches: `8 + 2*f_ttt + 2*f_eaf` (R146). -/
def pdEnd (e : Engine) : Nat := 8 + 2 * e.fTtt.toNat + 2 * e.fEaf.toNat

/-- The embedded-auth byte count the latches imply (R94, R147). -/
def authOf (e : Engine) : Nat := authLen e.fEaf e.fAi e.fEalc

/-- In each chunk state: how far the chunk has come, so that `need` counts exactly the bytes still to take
(R45, R96, R142, R151). -/
abbrev ChunkOk (e : Engine) : Prop :=
  match e.fsm with
  | .idle | .exec | .seek => True
  | .fs => 1 ≤ e.need ∧ e.need ≤ 3 ∧ e.pos + e.need = 4
  | .pd => 1 ≤ e.need ∧ e.need ≤ 4 ∧ e.pos + e.need = 8
  | .pdTt => 1 ≤ e.need ∧ e.need ≤ 2 ∧ e.pos + e.need = 10 ∧ e.fTtt = true
  | .pdEa =>
    1 ≤ e.need ∧ e.need ≤ 2 ∧ e.pos + e.need = 10 + 2 * e.fTtt.toNat ∧ e.fEaf = true
  | .payload =>
    1 ≤ e.need ∧ e.need ≤ e.fPl.toNat ∧ e.pos + e.need = pdEnd e + e.fPl.toNat
  | .auth =>
    1 ≤ e.need ∧ e.need ≤ authOf e ∧ e.fAuth = authOf e
      ∧ e.pos + e.need = pdEnd e + e.fPl.toNat + authOf e
  | .crc =>
    1 ≤ e.need ∧ e.need ≤ crcBytes e.fCt ∧ e.fAuth = authOf e
      ∧ e.pos + e.need = pdEnd e + e.fPl.toNat + authOf e + crcBytes e.fCt

/-- The ranges of the hidden state and of the frame registers (R31, R36, R37, R45, R101). -/
abbrev RangesOk (s : State) : Prop :=
  s.eng.need ≤ 1023 ∧ s.eng.pos ≤ 1103 ∧ s.eng.fAuth ≤ 64
    ∧ s.regs.frameLen.toNat ≤ 1103
    ∧ (s.regs.authLen.toNat = 0 ∨ s.regs.authLen.toNat = 8 ∨ s.regs.authLen.toNat = 12
        ∨ s.regs.authLen.toNat = 16 ∨ s.regs.authLen.toNat = 32 ∨ s.regs.authLen.toNat = 64)
    ∧ (s.regs.payloadOff.toNat = 0 ∨ s.regs.payloadOff.toNat = 8 ∨ s.regs.payloadOff.toNat = 10
        ∨ s.regs.payloadOff.toNat = 12)

/-- The reserved bits of the packed registers read 0 (R21, R32, R33, R35, R41). -/
abbrev ReservedZero (r : Regs) : Prop :=
  r.hdrFs &&& 0xF0CC0000#32 = 0#32 ∧ r.hdrPd &&& 0xFFF080E0#32 = 0#32
    ∧ r.hdrEa &&& 0xFFFE0000#32 = 0#32 ∧ r.lastErr &&& 0xFFFFFFC0#32 = 0#32

/-- STATUS agrees with the engine at every instant (R24, R45, R48, R180, R181, R183). -/
abbrev StatusOk (s : State) : Prop :=
  (busy s = true → s.status.done = false ∧ s.status.outcome = .none ∧ s.status.errCode = .none)
    ∧ ((s.status.outcome = .streamError ∨ s.status.outcome = .error) ↔ s.status.errCode ≠ .none)
    ∧ (s.status.crcOk = true → s.status.crcChecked = true)
    ∧ (s.eng.fsm.reading = true →
        s.eng.eos = false ∧ s.status.frameValid = false ∧ s.status.cmdOp = 1#4)
    ∧ (s.eng.fsm = .exec → s.eng.op.isSome = true)
    ∧ (s.status.frameValid = true → 9 ≤ s.regs.frameLen.toNat)

/-- Every FBUF byte of the last frame attempt, and of the running one, has been written, and FBUF[0] is the
preamble (R43, R141, R142). -/
abbrev FbufOk (s : State) : Prop :=
  (∀ i < s.regs.frameLen.toNat, (memLookup s.mem (Config.fbufBase + i)).isSome = true)
    ∧ (s.eng.fsm.inFrame = true →
        1 ≤ s.eng.pos ∧ ∀ i < s.eng.pos, (memLookup s.mem (Config.fbufBase + i)).isSome = true)
    ∧ (1 ≤ s.regs.frameLen.toNat ∨ s.eng.fsm.inFrame = true →
        memLookup s.mem Config.fbufBase = some Config.preamble)

/-- The invariant of the machine. -/
abbrev Inv (s : State) : Prop :=
  s.mem.wf ∧ ChunkOk s.eng ∧ RangesOk s ∧ ReservedZero s.regs ∧ StatusOk s ∧ FbufOk s

end Sys2Proof.Machine
end

