-- ==== Sys2Proof/Certificates/Slice0/Obligations.lean ====
section
/-!
DEFINITION. The statements about the SFB. Each docstring names the rule of the spec it formalises. A
statement over all states also holds in states that no run reaches; where it needs an invariant it takes
`Inv` as a premise, and `StepKeepsInvariant` states that every step keeps it.
-/

open Sys2Proof Sys2Proof.Machine

/-! ## Encoding -/

/-- The opcode map and the reserved words (R81, R82, R83), on words written out from the table. The names of
rejection are the model's (assumption 21). -/
def Obligations.DecodeKnownWords : Prop :=
  decode 0x00000000#32 = .ok (.nop .dbuf .crc8)
    ∧ decode 0x000000D0#32 = .ok (.nop .fbuf .crc32)
    ∧ decode 0x00000001#32 = .ok (.readNext .dbuf .crc8)
    ∧ decode 0x00000012#32 = .ok (.extract .fbuf .crc8)
    ∧ decode 0x00000043#32 = .ok (.crcCompute .dbuf .crc16)
    ∧ decode 0x00000094#32 = .ok (.crcValidate .fbuf .crc24)
    ∧ decode 0x00000005#32 = .ok (.abort .dbuf .crc8)
    ∧ decode 0x00000006#32 = .ok (.softReset .dbuf .crc8)
    ∧ decode 0x00000007#32 = .error .reservedOpcode
    ∧ decode 0x00000020#32 = .error .reservedBit5
    ∧ decode 0x80000001#32 = .error .reservedHighBits

/-- The decoder accepts exactly the words that R83 does not call illegal and gives each the opcode of its bits
[3:0]. The last two clauses say under which name a word is rejected: the high bits before bit 5, and bit 5
before the opcode. Names and order are the model's choice (DESIGN CHOICE, assumption 21), not of R83. -/
def Obligations.DecodeAcceptsExactlyLegalWords : Prop :=
  ∀ w : Word,
    ((∃ i, decode w = .ok i) ↔
      w.toNat / 2 ^ 8 = 0 ∧ w.toNat / 2 ^ 5 % 2 = 0 ∧ w.toNat % 2 ^ 4 ≤ 6)
    ∧ (∀ i, decode w = .ok i → (opcode i).toNat = w.toNat % 2 ^ 4)
    ∧ (decode w = .error .reservedHighBits ↔ w.toNat / 2 ^ 8 ≠ 0)
    ∧ (decode w = .error .reservedBit5 ↔ w.toNat / 2 ^ 8 = 0 ∧ w.toNat / 2 ^ 5 % 2 ≠ 0)

/-- Decoding an encoded command gives it back, with SRC and CRCW at every value, and a word that decodes is
the encoding of what it decodes to: no bit of a legal word is dropped (R80, R81, R82). -/
def Obligations.EncodeDecodeInverse : Prop :=
  (∀ i : Instr, decode (encode i) = .ok i) ∧ (∀ (w : Word) (i : Instr), decode w = .ok i → encode i = w)

/-! ## A step runs the decoded command -/

/-- A 4-byte write of `w` to CMD (offset 0x004), where `w` decodes to `i`, is one step, and it is `exec i` at
that state with the access taken off the host's list (R25, R61, R180). -/
def Obligations.StepRunsDecodedCommand : Prop :=
  ∀ (s : State) (w : Word) (i : Instr) (rest : List Input),
    s.out.inputs = .write 0x004#14 4 w :: rest → decode w = .ok i →
      step s = exec i { s with out := { s.out with inputs := rest } }

/-- An illegal command word (R83): while idle it completes at once with ERROR and ILLEGAL_COMMAND, CMD_OP its
bits [3:0] and LAST_ERR 0x27; while busy it sets OVR and changes nothing else. -/
def Obligations.IllegalWordReported : Prop :=
  ∀ (s : State) (w : Word) (rest : List Input),
    s.out.inputs = .write 0x004#14 4 w :: rest →
    ¬ (w.toNat / 2 ^ 8 = 0 ∧ w.toNat / 2 ^ 5 % 2 = 0 ∧ w.toNat % 2 ^ 4 ≤ 6) →
      (s.eng.fsm = .idle →
        step s = .next { s with
          status := { s.status with
            done := true, outcome := .error, errCode := .illegalCommand, cmdOp := w.extractLsb' 0 4 }
          regs := { s.regs with lastErr := 0x27#32 }
          out := { s.out with inputs := rest } })
      ∧ (s.eng.fsm ≠ .idle →
        step s = .next { s with
          status := { s.status with ovr := true }
          out := { s.out with inputs := rest } })

/-! ## Commands: result, completion and frame -/

/-- NOP (R182), the word 0, while idle: DONE, OUTCOME = OK and CMD_OP = 0 in the start step, whatever SRC and
CRCW are; nothing else changes, and the interrupt line follows DONE. -/
def Obligations.NopCompletesAtOnce : Prop :=
  decode 0x00000000#32 = .ok (.nop .dbuf .crc8)
  ∧ ∀ (s : State) (b : Source) (c : CrcSel), s.eng.fsm = .idle →
    (∀ t, exec (.nop b c) s = .next t → irq t = s.ctrl.ie)
    ∧ exec (.nop b c) s = .next { s with
      status := { s.status with done := true, outcome := .ok, errCode := .none, cmdOp := 0#4 } }

/-- READ_NEXT (R183) while idle: its start step clears FRAME_VALID, CRC_CHECKED and CRC_OK and enters SEEK,
or, when the stream has ended, completes at once with END_OF_STREAM and takes no event. -/
def Obligations.ReadNextStarts : Prop :=
  ∀ (s : State) (b : Source) (c : CrcSel), s.eng.fsm = .idle →
    (s.eng.eos = false →
      exec (.readNext b c) s = .next { s with
        status := { s.status with
          done := false, outcome := .none, errCode := .none, cmdOp := 1#4
          frameValid := false, crcChecked := false, crcOk := false }
        eng := { s.eng with fsm := .seek } })
    ∧ (s.eng.eos = true →
      exec (.readNext b c) s = .next { s with
        status := { s.status with
          done := true, outcome := .endOfStream, errCode := .none, cmdOp := 1#4
          frameValid := false, crcChecked := false, crcOk := false } })

/-- EXTRACT (R113), the word `0x02 | SRC << 4`: started while idle, it enters EXEC and, one engine step
after its latency, completes with the 64-bit zero-extended field in RES_HI:RES_LO, or with OUT_OF_RANGE and
both registers 0 when the range check of R112 fails. Only the result registers, LAST_ERR on an error and the
completion flags change. Holds for every latency (assumption 2). -/
def Obligations.ExtractResult : Prop :=
  (∀ b, decode (BitVec.ofNat 32 (2 + 16 * sourceBit b)) = .ok (.extract b .crc8))
  ∧ ∀ (s : State) (b : Source) (c : CrcSel), s.eng.fsm = .idle →
    ∃ t, exec (.extract b c) s = .next t ∧ t.eng.fsm = .exec ∧ t.status.done = false ∧
      ∃ u, engineRun (t.free.work + 1) t = .next u ∧
        let len := match b with | .dbuf => s.regs.dbufLen.toNat | .fbuf => s.regs.frameLen.toNat
        let off := s.regs.arg0.toNat
        let n := s.regs.arg1.toNat
        let inRange := ¬ (b = .dbuf ∧ 2048 < len) ∧ 1 ≤ n ∧ n ≤ 64 ∧ (off + n + 7) / 8 ≤ len
        let v := ext (bufSlice s b 0 len) off n
        u.mem = s.mem ∧ u.ctrl = s.ctrl ∧ u.out = s.out
          ∧ u.eng = { s.eng with op := t.eng.op }
          ∧ (inRange →
              u.regs = { s.regs with
                resLo := BitVec.ofNat 32 (v % 2 ^ 32), resHi := BitVec.ofNat 32 (v / 2 ^ 32) }
              ∧ u.status = { s.status with
                  done := true, outcome := .ok, errCode := .none, cmdOp := 2#4 })
          ∧ (¬ inRange →
              u.regs = { s.regs with resLo := 0#32, resHi := 0#32, lastErr := 0x24#32 }
              ∧ u.status = { s.status with
                  done := true, outcome := .error, errCode := .outOfRange, cmdOp := 2#4 })

/-- CRC_COMPUTE (R125, R126), the word `0x03 | SRC << 4 | CRCW << 6`: as EXTRACT, with the CRC of the
operand range in RES_LO and RES_HI 0. CTRL does not matter, and CRC_CHECKED, CRC_OK, CRC_RX and CRC_CALC do
not change. -/
def Obligations.CrcComputeResult : Prop :=
  (∀ b c, decode (BitVec.ofNat 32 (3 + 16 * sourceBit b + 64 * crcCode c)) = .ok (.crcCompute b c))
  ∧ ∀ (s : State) (b : Source) (c : CrcSel), s.eng.fsm = .idle →
    ∃ t, exec (.crcCompute b c) s = .next t ∧ t.eng.fsm = .exec ∧ t.status.done = false ∧
      ∃ u, engineRun (t.free.work + 1) t = .next u ∧
        let len := match b with | .dbuf => s.regs.dbufLen.toNat | .fbuf => s.regs.frameLen.toNat
        let start := s.regs.arg0.toNat
        let count := s.regs.arg1.toNat
        let inRange := ¬ (b = .dbuf ∧ 2048 < len) ∧ start + count ≤ len
        u.mem = s.mem ∧ u.ctrl = s.ctrl ∧ u.out = s.out
          ∧ u.eng = { s.eng with op := t.eng.op }
          ∧ (inRange →
              u.regs = { s.regs with resLo := crcWord c (bufSlice s b start count), resHi := 0#32 }
              ∧ u.status = { s.status with
                  done := true, outcome := .ok, errCode := .none, cmdOp := 3#4 })
          ∧ (¬ inRange →
              u.regs = { s.regs with resLo := 0#32, resHi := 0#32, lastErr := 0x24#32 }
              ∧ u.status = { s.status with
                  done := true, outcome := .error, errCode := .outOfRange, cmdOp := 3#4 })

/-- CRC_VALIDATE (R123, R125, R127), the word `0x04 | SRC << 4 | CRCW << 6`: RES_HI is the computed CRC and
RES_LO is 1 exactly when it equals EXPECTED as a full 32-bit value; a mismatch completes with OK. -/
def Obligations.CrcValidateResult : Prop :=
  (∀ b c, decode (BitVec.ofNat 32 (4 + 16 * sourceBit b + 64 * crcCode c)) = .ok (.crcValidate b c))
  ∧ ∀ (s : State) (b : Source) (c : CrcSel), s.eng.fsm = .idle →
    ∃ t, exec (.crcValidate b c) s = .next t ∧ t.eng.fsm = .exec ∧ t.status.done = false ∧
      ∃ u, engineRun (t.free.work + 1) t = .next u ∧
        let len := match b with | .dbuf => s.regs.dbufLen.toNat | .fbuf => s.regs.frameLen.toNat
        let start := s.regs.arg0.toNat
        let count := s.regs.arg1.toNat
        let inRange := ¬ (b = .dbuf ∧ 2048 < len) ∧ start + count ≤ len
        let v := crcWord c (bufSlice s b start count)
        u.mem = s.mem ∧ u.ctrl = s.ctrl ∧ u.out = s.out
          ∧ u.eng = { s.eng with op := t.eng.op }
          ∧ (inRange →
              u.regs = { s.regs with resLo := (if v = s.regs.expected then 1#32 else 0#32), resHi := v }
              ∧ u.status = { s.status with
                  done := true, outcome := .ok, errCode := .none, cmdOp := 4#4 })
          ∧ (¬ inRange →
              u.regs = { s.regs with resLo := 0#32, resHi := 0#32, lastErr := 0x24#32 }
              ∧ u.status = { s.status with
                  done := true, outcome := .error, errCode := .outOfRange, cmdOp := 4#4 })

/-- A command in EXEC stays there for exactly its latency and then completes: it is busy with DONE = 0 after
each of the first `work` engine steps, and idle with DONE = 1 after one more (R245, R248, R249). -/
def Obligations.ExecCompletesAfterItsLatency : Prop :=
  ∀ (s : State) (o : Op), s.eng.fsm = .exec → s.eng.op = some o → s.status.done = false →
    (∀ k, k ≤ s.free.work →
      ∃ t, engineRun k s = .next t ∧ t.eng.fsm = .exec ∧ t.status.done = false ∧ t.regs = s.regs
        ∧ t.mem = s.mem ∧ t.out = s.out)
    ∧ ∃ t, engineRun (s.free.work + 1) s = .next t ∧ t.eng.fsm = .idle ∧ t.status.done = true
        ∧ t.mem = s.mem ∧ t.out = s.out

/-- ABORT (R186), the word 5: while idle it ends the stream and completes with OK; while a READ_NEXT is
reading it ends that READ_NEXT as an Eos in the current state would, and starts no command of its own; while
an EXEC command runs it is refused with OVR. It takes no byte, and a READ_NEXT after it ends with
END_OF_STREAM. -/
def Obligations.AbortEffect : Prop :=
  decode 0x00000005#32 = .ok (.abort .dbuf .crc8)
  ∧ ∀ (s : State) (b : Source) (c : CrcSel),
    (s.eng.fsm = .idle →
      exec (.abort b c) s = .next { s with
        status := { s.status with done := true, outcome := .ok, errCode := .none, cmdOp := 5#4 }
        eng := { s.eng with eos := true } })
    ∧ (s.eng.fsm = .seek →
      exec (.abort b c) s = .next { s with
        status := { s.status with done := true, outcome := .endOfStream, errCode := .none }
        eng := { s.eng with eos := true, fsm := .idle } })
    ∧ (s.eng.fsm.inFrame = true →
      exec (.abort b c) s = .next { s with
        status := { s.status with done := true, outcome := .streamError, errCode := .eof }
        regs := { s.regs with frameLen := BitVec.ofNat 32 s.eng.pos, lastErr := 0x35#32 }
        eng := { s.eng with eos := true, fsm := .idle } })
    ∧ (s.eng.fsm = .exec →
      exec (.abort b c) s = .next { s with status := { s.status with ovr := true } })
    ∧ (∀ t, s.eng.fsm ≠ .exec → exec (.abort b c) s = .next t →
      ∃ u, exec (.readNext b c) t = .next u ∧ u.eng.fsm = .idle ∧ u.status.done = true
        ∧ u.status.outcome = .endOfStream ∧ u.out = t.out)

/-- SOFT_RESET (R187), the word 6, from every state, busy or not: every register but CTRL and the hardwired
PREAMBLE reads 0, STATUS reads 0x00060006, every hidden variable of R45 has its reset value, CTRL, both buffers
and the source's offered events are kept, and the source's duty begins afresh. That the unbounded cursor is 0
afterwards is the model's inference from BYTE_CNT's reset value (DEDUCED, assumption 7); R187 does not name it. -/
def Obligations.SoftResetEffect : Prop :=
  decode 0x00000006#32 = .ok (.softReset .dbuf .crc8)
  ∧ ∀ (s : State) (b : Source) (c : CrcSel),
    ∃ t, exec (.softReset b c) s = .next t
      ∧ regValue t .status = 0x00060006#32
      ∧ (∀ r : Reg, r ≠ .ctrl → r ≠ .status → r ≠ .preamble → regValue t r = 0#32)
      ∧ t.ctrl = s.ctrl ∧ t.mem = s.mem ∧ t.out.src = s.out.src ∧ t.out.inputs = s.out.inputs
      ∧ t.eng = { fsm := .idle, need := 0, pos := 0, fPl := 0#10, fEaf := false, fCt := .crc8,
                  fTtt := false, fAi := 0#3, fEalc := 0#3, fAuth := 0, op := none, eos := false,
                  cursor := 0 }
      ∧ t.out.srcEnded = false ∧ irq t = s.ctrl.ie

/-- The frame every command keeps at its CMD write: no byte of FBUF or DBUF changes, CTRL stays, no source
event is taken, and no register of the operand or counter group changes unless the command is SOFT_RESET. -/
def Obligations.CommandsKeepMemoryAndOperands : Prop :=
  ∀ (i : Instr) (s t : State), exec i s = .next t →
    (∀ a, byteAt t a = byteAt s a) ∧ t.ctrl = s.ctrl ∧ t.out.src = s.out.src
      ∧ t.out.inputs = s.out.inputs ∧ t.out.hostRead = s.out.hostRead
      ∧ ((∀ b c, i ≠ .softReset b c) →
          t.regs = { s.regs with frameLen := t.regs.frameLen, lastErr := t.regs.lastErr }
          ∧ t.eng.cursor = s.eng.cursor ∧ t.status.accErr = s.status.accErr)

/-- The fields a command ignores do not change it (R81, R83): NOP, READ_NEXT, ABORT and SOFT_RESET do the same
for every SRC and CRCW, and EXTRACT completes the same way for every CRCW. -/
def Obligations.IgnoredFieldsDoNotMatter : Prop :=
  ∀ (s : State) (b b' : Source) (c c' : CrcSel),
    exec (.nop b c) s = exec (.nop b' c') s
    ∧ exec (.readNext b c) s = exec (.readNext b' c') s
    ∧ exec (.abort b c) s = exec (.abort b' c') s
    ∧ exec (.softReset b c) s = exec (.softReset b' c') s
    ∧ (∀ o : Op, o.kind = .extract → finishExec { o with crcw := c } s = finishExec o s)

/-! ## Completion, error log and policy -/

/-- `complete(outcome, code)` (R181): the engine is idle, OUTCOME, ERR_CODE and DONE are written together,
CMD_OP stays, an ERROR or STREAM_ERROR is recorded in LAST_ERR with RAISED = 1 and FATAL for a stream error,
and nothing else changes; the interrupt line follows DONE. -/
def Obligations.CompleteWritesTogether : Prop :=
  ∀ (s : State) (o : CmdOutcome) (c : ErrCode),
    complete o c s = { s with
      eng := { s.eng with fsm := .idle }
      status := { s.status with outcome := o, errCode := c, done := true }
      regs := { s.regs with lastErr := (complete o c s).regs.lastErr } }
    ∧ (o = .error → (complete o c s).regs.lastErr.toNat = errNumber c + 32)
    ∧ (o = .streamError → (complete o c s).regs.lastErr.toNat = errNumber c + 16 + 32)
    ∧ (o ≠ .error → o ≠ .streamError → (complete o c s).regs.lastErr = s.regs.lastErr)
    ∧ irq (complete o c s) = s.ctrl.ie

/-- `log_error(code, fatal, raised)` and its callers (R216): LAST_ERR is code | fatal << 4 | raised << 5 and
LOG_CNT counts an entry that was not raised, modulo 2^32; `complete` logs every ERROR and STREAM_ERROR as
raised, `recoverable` logs under LOG_AND_CONTINUE, and IGNORE logs nothing. -/
def Obligations.ErrorLogEntries : Prop :=
  ∀ (s : State) (c : ErrCode) (f r : Bool),
    (logError c f r s = { s with
      regs := { s.regs with
        lastErr := (logError c f r s).regs.lastErr, logCnt := (logError c f r s).regs.logCnt } })
    ∧ (logError c f r s).regs.lastErr.toNat = errNumber c + 16 * f.toNat + 32 * r.toNat
    ∧ (logError c f r s).regs.logCnt.toNat =
        (if r then s.regs.logCnt.toNat else (s.regs.logCnt.toNat + 1) % 2 ^ 32)
    ∧ (complete .error c s).regs = (logError c false true s).regs
    ∧ (complete .streamError c s).regs = (logError c true true s).regs
    ∧ (s.ctrl.policy = .logAndContinue → (recoverable c s).regs = (logError c false false s).regs)
    ∧ (s.ctrl.policy = .ignore → (recoverable c s).regs = s.regs)

/-- `recoverable(code)` under the three policies (R184, R185); under none of them is a byte taken or put
back. -/
def Obligations.RecoverableFollowsPolicy : Prop :=
  ∀ (s : State) (c : ErrCode),
    (s.ctrl.policy = .raise → recoverable c s = complete .error c s)
    ∧ (s.ctrl.policy = .logAndContinue → recoverable c s = { s with
        regs := { s.regs with
          lastErr := BitVec.ofNat 32 (errNumber c), logCnt := s.regs.logCnt + 1#32 }
        eng := { s.eng with need := 0, fsm := .seek } })
    ∧ (s.ctrl.policy = .ignore → recoverable c s = { s with eng := { s.eng with need := 0, fsm := .seek } })
    ∧ (recoverable c s).out = s.out ∧ (recoverable c s).mem = s.mem
    ∧ (recoverable c s).eng.cursor = s.eng.cursor

/-! ## The frame state machine -/

/-- SEEK with Byte(b) (R141): the preamble starts a frame attempt; any other byte is counted as a discard,
and is an UNKNOWN_PROTOCOL error under the policy only when CTRL.UPE = 1. -/
def Obligations.SeekTakesByte : Prop :=
  ∀ (s : State) (b : Byte) (rest : List SrcEvent),
    s.eng.fsm = .seek → s.out.src = .byte b :: rest →
      (b = 0x73#8 →
        ∃ t, engineStep s = .next t ∧ t.eng = { s.eng with
            cursor := s.eng.cursor + 1, pos := 1, need := 3, fsm := .fs }
          ∧ bufByte t .fbuf 0 = b ∧ (∀ a, a ≠ 0x1000 → byteAt t a = byteAt s a)
          ∧ t.regs = s.regs ∧ t.status = s.status ∧ t.ctrl = s.ctrl
          ∧ t.out = { s.out with src := rest })
      ∧ (b ≠ 0x73#8 →
          let d : State := { s with
            eng := { s.eng with cursor := s.eng.cursor + 1 }
            regs := { s.regs with discardCnt := s.regs.discardCnt + 1#32 }
            out := { s.out with src := rest } }
          engineStep s = .next (if s.ctrl.upe then recoverable .unknownProtocol d else d))

/-- A chunk state with Byte(b), under R142's entry invariant: the byte is counted and stored at FBUF[pos], pos
and need move by one, and the chunk ends when need reaches 0. -/
def Obligations.ChunkTakesByte : Prop :=
  ∀ (s : State) (b : Byte) (rest : List SrcEvent),
    s.eng.fsm.inFrame = true → 1 ≤ s.eng.need → s.eng.pos ≤ 1102 → s.out.src = .byte b :: rest →
      ∃ t, engineStep s = .next (if s.eng.need = 1 then chunkEnd t else t)
        ∧ t.eng = { s.eng with
            cursor := s.eng.cursor + 1, pos := s.eng.pos + 1, need := s.eng.need - 1 }
        ∧ bufByte t .fbuf s.eng.pos = b
        ∧ (∀ a, a ≠ 0x1000 + s.eng.pos → byteAt t a = byteAt s a)
        ∧ t.regs = s.regs ∧ t.status = s.status ∧ t.ctrl = s.ctrl
        ∧ t.out = { s.out with src := rest }

/-- chunk_end(FS) (R143, with the wire layout of R90): in terms of the 24-bit frame-start value v, the
latches, HDR_FS, and the move to PD with 4 bytes needed. -/
def Obligations.FrameStartDecoded : Prop :=
  ∀ s : State, s.eng.fsm = .fs →
    let v := beNat (bufSlice s .fbuf 1 3)
    let t := chunkEnd s
    t.eng.fPl.toNat = v / 2 ^ 7 % 2 ^ 10 ∧ (t.eng.fEaf = true ↔ v / 2 ^ 6 % 2 = 1)
      ∧ crcCode t.eng.fCt = v / 2 ^ 4 % 4
      ∧ t.regs.hdrFs.toNat =
          v / 2 ^ 17 + (v / 2 ^ 6 % 2) * 2 ^ 7 + (v / 2 ^ 7 % 2 ^ 10) * 2 ^ 8 + (v / 2 ^ 4 % 4) * 2 ^ 20
            + (v % 16) * 2 ^ 24
      ∧ t = { s with
          eng := { s.eng with fPl := t.eng.fPl, fEaf := t.eng.fEaf, fCt := t.eng.fCt, need := 4, fsm := .pd }
          regs := { s.regs with hdrFs := t.regs.hdrFs } }

/-- chunk_end(PD) and chunk_end(PD_TT) (R144, R145): the time-tag bit @4 of the payload descriptor decides
whether two more bytes follow, before the extension that EAF asks for. -/
def Obligations.DescriptorExtensionsInOrder : Prop :=
  (∀ s : State, s.eng.fsm = .pd →
    let t : State :=
      { s with eng := { s.eng with fTtt := decide ((bufByte s .fbuf 4).toNat / 2 ^ 3 % 2 = 1) } }
    (t.eng.fTtt = true → chunkEnd s = { t with eng := { t.eng with need := 2, fsm := .pdTt } })
    ∧ (t.eng.fTtt = false → s.eng.fEaf = true →
        chunkEnd s = { t with eng := { t.eng with need := 2, fsm := .pdEa } })
    ∧ (t.eng.fTtt = false → s.eng.fEaf = false → chunkEnd s = pdDone t))
  ∧ (∀ s : State, s.eng.fsm = .pdTt →
      (s.eng.fEaf = true → chunkEnd s = { s with eng := { s.eng with need := 2, fsm := .pdEa } })
      ∧ (s.eng.fEaf = false → chunkEnd s = pdDone s))

/-- `pd_done()` (R146, with the wire layouts of R91 and R92): HDR_PD, HDR_TT, HDR_EA and PAYLOAD_OFF in terms
of the descriptor base as one integer v of 32 or 48 bits and of the extension as one 16-bit integer x; then
the payload chunk, or at once the auth decision when payload_length is 0 (R151). chunk_end(PD_EA) is
`pd_done()`. -/
def Obligations.PayloadDescriptorDecoded : Prop :=
  (∀ s : State, s.eng.fsm = .pdEa → chunkEnd s = pdDone s)
  ∧ ∀ s : State, s.eng.pos = 8 + 2 * s.eng.fTtt.toNat + 2 * s.eng.fEaf.toNat →
    let t := s.eng.fTtt.toNat
    let v := beNat (bufSlice s .fbuf 4 (4 + 2 * t))
    let x := beNat (bufSlice s .fbuf (8 + 2 * t) 2)
    let u := decodePd s
    u.regs.hdrPd.toNat =
        v / 2 ^ (28 + 16 * t) + t * 2 ^ 4 + (v / 2 ^ 4 % 2 ^ 7) * 2 ^ 8 + (v % 2 ^ 4) * 2 ^ 16
      ∧ u.regs.hdrTt.toNat = v / 2 ^ 11 % 2 ^ (16 + 16 * t)
      ∧ u.regs.payloadOff.toNat = s.eng.pos
      ∧ (s.eng.fEaf = true →
          u.eng.fAi.toNat = x / 2 ^ 3 % 8 ∧ u.eng.fEalc.toNat = x % 8
          ∧ u.regs.hdrEa.toNat =
              x / 2 ^ 12 + (x / 2 ^ 6 % 2 ^ 6) * 2 ^ 4 + (x / 2 ^ 3 % 8) * 2 ^ 10 + (x % 8) * 2 ^ 13 + 2 ^ 16)
      ∧ (s.eng.fEaf = false → u.eng.fAi = 0#3 ∧ u.eng.fEalc = 0#3 ∧ u.regs.hdrEa = 0#32)
      ∧ u = { s with
          eng := { s.eng with fAi := u.eng.fAi, fEalc := u.eng.fEalc }
          regs := { s.regs with
            hdrPd := u.regs.hdrPd, hdrTt := u.regs.hdrTt, hdrEa := u.regs.hdrEa
            payloadOff := u.regs.payloadOff } }
      ∧ pdDone s =
          (if 0 < s.eng.fPl.toNat then
            { u with eng := { u.eng with need := s.eng.fPl.toNat, fsm := .payload } }
          else payloadDone u)

/-- The embedded-auth length table (R94). -/
def Obligations.AuthLengthTable : Prop :=
  ∀ (eaf : Bool) (ai ealc : BitVec 3),
    (eaf = false ∨ ai.toNat ≤ 1 → authLen eaf ai ealc = 0)
    ∧ (eaf = true → 1 < ai.toNat →
        (ealc = 0#3 → authLen eaf ai ealc = 8) ∧ (ealc = 1#3 → authLen eaf ai ealc = 12)
        ∧ (ealc = 2#3 → authLen eaf ai ealc = 16) ∧ (ealc = 3#3 → authLen eaf ai ealc = 32)
        ∧ (ealc = 4#3 → authLen eaf ai ealc = 64) ∧ (5 ≤ ealc.toNat → authLen eaf ai ealc = 0))

/-- `payload_done()` (R147, R157), which ends the payload chunk (R148): an unmapped length code in use is
counted, and is an EAL_UNMAPPED error when CTRL.STRICT_EAL = 1; otherwise AUTH_LEN and f_auth get the
length, and the auth chunk or the trailer follows. The auth chunk is followed by the trailer. -/
def Obligations.AuthDecision : Prop :=
  (∀ s : State, s.eng.fsm = .payload → chunkEnd s = payloadDone s)
  ∧ (∀ s : State,
    let unmapped := s.eng.fEaf = true ∧ 1 < s.eng.fAi.toNat ∧ 5 ≤ s.eng.fEalc.toNat
    let n := authLen s.eng.fEaf s.eng.fAi s.eng.fEalc
    let cnt : State := { s with regs := { s.regs with ealUnmappedCnt := s.regs.ealUnmappedCnt + 1#32 } }
    let go : State → State := fun u =>
      { u with
        eng := { u.eng with
          fAuth := n
          need := if 0 < n then n else crcCode s.eng.fCt + 1
          fsm := if 0 < n then .auth else .crc }
        regs := { u.regs with authLen := BitVec.ofNat 32 n } }
    (¬ unmapped → payloadDone s = go s)
    ∧ (unmapped → s.ctrl.strictEal = false → payloadDone s = go cnt)
    ∧ (unmapped → s.ctrl.strictEal = true →
        payloadDone s = recoverable .ealUnmapped { cnt with
          regs := { cnt.regs with authLen := 0#32, frameLen := BitVec.ofNat 32 s.eng.pos } }))
  ∧ (∀ s : State, s.eng.fsm = .auth →
      chunkEnd s = { s with eng := { s.eng with need := crcCode s.eng.fCt + 1, fsm := .crc } })

/-- chunk_end(CRC) (R149, R150): the trailer and, with CRC_EN = 1, the CRC of the core bytes FBUF[1 .. pos-k)
are recorded; the frame is delivered on a match or with CRC_EN = 0, and a mismatch is counted and goes by the
policy. -/
def Obligations.TrailerChecked : Prop :=
  ∀ s : State, s.eng.fsm = .crc →
    let k := crcCode s.eng.fCt + 1
    let rx := BitVec.ofNat 32 (beNat (bufSlice s .fbuf (s.eng.pos - k) k))
    let c := crcWord s.eng.fCt (bufSlice s .fbuf 1 (s.eng.pos - k - 1))
    let delivered (cv : Word) (chk : Bool) : State := { s with
      eng := { s.eng with fsm := .idle }
      regs := { s.regs with
        crcRx := rx, frameLen := BitVec.ofNat 32 s.eng.pos, crcCalc := cv
        frameCnt := s.regs.frameCnt + 1#32 }
      status := { s.status with
        crcChecked := chk, crcOk := chk, frameValid := true, done := true, outcome := .ok
        errCode := .none } }
    (s.ctrl.crcEn = false → chunkEnd s = delivered 0#32 false)
    ∧ (s.ctrl.crcEn = true → c = rx → chunkEnd s = delivered c true)
    ∧ (s.ctrl.crcEn = true → c ≠ rx →
        chunkEnd s = recoverable .crcMismatch { s with
          regs := { s.regs with
            crcRx := rx, frameLen := BitVec.ofNat 32 s.eng.pos, crcCalc := c
            crcErrCnt := s.regs.crcErrCnt + 1#32 }
          status := { s.status with crcChecked := true, crcOk := false } })

/-- The stream ends inside a frame (R152): whatever the policy, READ_NEXT ends with STREAM_ERROR and EOF or
SOURCE_ERROR, FRAME_LEN is the partial length, and the header registers and both buffers keep what they
hold. -/
def Obligations.StreamEndsInsideFrame : Prop :=
  ∀ (s : State) (e : SrcEvent) (rest : List SrcEvent),
    s.eng.fsm.inFrame = true → s.out.src = e :: rest → (e = .eos ∨ e = .err) →
      engineStep s = .next { s with
        status := { s.status with
          done := true, outcome := .streamError, errCode := if e = .eos then .eof else .sourceError }
        regs := { s.regs with
          frameLen := BitVec.ofNat 32 s.eng.pos, lastErr := if e = .eos then 0x35#32 else 0x36#32 }
        eng := { s.eng with eos := true, fsm := .idle }
        out := { s.out with src := rest } }

/-- The stream ends between frames (R153): Eos is the clean END_OF_STREAM, Err is always STREAM_ERROR with
SOURCE_ERROR. -/
def Obligations.StreamEndsBetweenFrames : Prop :=
  ∀ (s : State) (rest : List SrcEvent), s.eng.fsm = .seek →
    (s.out.src = .eos :: rest →
      engineStep s = .next { s with
        status := { s.status with done := true, outcome := .endOfStream, errCode := .none }
        eng := { s.eng with eos := true, fsm := .idle }
        out := { s.out with src := rest } })
    ∧ (s.out.src = .err :: rest →
      engineStep s = .next { s with
        status := { s.status with done := true, outcome := .streamError, errCode := .sourceError }
        regs := { s.regs with lastErr := 0x36#32 }
        eng := { s.eng with eos := true, fsm := .idle }
        out := { s.out with src := rest } })

/-- The state graph (R140, with R151 and R157 for what a zero-length payload decides at once): from a state of
the invariant, an engine step moves only along the listed transitions, or stays where it is. -/
def Obligations.StateGraphIsClosed : Prop :=
  ∀ s t : State, Inv s → engineStep s = .next t →
    t.eng.fsm = s.eng.fsm
    ∨ (s.eng.fsm, t.eng.fsm) ∈
        [(Fsm.exec, Fsm.idle), (.seek, .fs), (.seek, .idle), (.fs, .pd), (.fs, .idle), (.pd, .pdTt),
         (.pd, .pdEa), (.pd, .payload), (.pd, .crc), (.pd, .idle), (.pdTt, .pdEa),
         (.pdTt, .payload), (.pdTt, .crc), (.pdTt, .idle), (.pdEa, .payload), (.pdEa, .auth),
         (.pdEa, .crc), (.pdEa, .seek), (.pdEa, .idle), (.payload, .auth), (.payload, .crc),
         (.payload, .seek), (.payload, .idle), (.auth, .crc), (.auth, .idle), (.crc, .seek),
         (.crc, .idle)]

/-- The engine takes an event only in a reading state and only if one is offered; elsewhere an offered event
stays offered and is not lost (R64, R66). -/
def Obligations.EngineTakesOnlyOfferedEvents : Prop :=
  (∀ s : State, srcReady s = false → ∀ t, engineStep s = .next t → t.out = s.out)
  ∧ (∀ s : State, srcReady s = true → s.out.src = [] → engineStep s = .next s)
  ∧ (∀ s t : State, ∀ e rest, srcReady s = true → s.out.src = e :: rest → engineStep s = .next t →
      t.out = { s.out with src := rest })
  ∧ (∀ s : State, srcReady s = true ↔ (s.eng.fsm ≠ .idle ∧ s.eng.fsm ≠ .exec))

/-- The byte source's step (R64): one more event is made available behind those already offered, and nothing
else changes; after Eos or Err in this stream the model refuses the offer (I8). -/
def Obligations.SourceOffersInOrder : Prop :=
  ∀ (s : State) (e : SrcEvent) (rest : List Input), s.out.inputs = .offer e :: rest →
    (s.out.srcEnded = false → step s = .next { s with
      out := { s.out with
        inputs := rest, src := s.out.src ++ [e], srcEnded := decide (e = .eos ∨ e = .err) } })
    ∧ (s.out.srcEnded = true → step s = .refused .offerAfterEnd)

/-- A READ_NEXT does not depend on the operand registers (R46, R183): an engine step in a reading state does
the same, and leaves them alone, whatever ARG0, ARG1, EXPECTED and DBUF_LEN hold. -/
def Obligations.ReadIgnoresOperands : Prop :=
  ∀ (s t : State) (a0 a1 ex dl : Word), s.eng.fsm.reading = true → engineStep s = .next t →
    let f : State → State := fun u =>
      { u with regs := { u.regs with arg0 := a0, arg1 := a1, expected := ex, dbufLen := dl } }
    engineStep (f s) = .next (f t)

/-! ## The host bus -/

/-- The host pseudo-assembly (R85, R86): each form as its accesses, in order, with the command words written
out as numbers. -/
def Obligations.PseudoAssemblyExpands : Prop :=
  ∀ (b : Source) (w : CrcSel) (x y z : Word) (i : BitVec 11) (v : Byte),
    expand .nop = [.write 0x004#14 4 0#32] ∧ expand .readNext = [.write 0x004#14 4 1#32]
    ∧ expand (.extract b x y) =
        [.write 0x00C#14 4 x, .write 0x010#14 4 y,
          .write 0x004#14 4 (BitVec.ofNat 32 (2 + 16 * sourceBit b))]
    ∧ expand (.crc b w x y) =
        [.write 0x00C#14 4 x, .write 0x010#14 4 y,
          .write 0x004#14 4 (BitVec.ofNat 32 (3 + 16 * sourceBit b + 64 * crcCode w))]
    ∧ expand (.crcv b w x y z) =
        [.write 0x00C#14 4 x, .write 0x010#14 4 y, .write 0x014#14 4 z,
          .write 0x004#14 4 (BitVec.ofNat 32 (4 + 16 * sourceBit b + 64 * crcCode w))]
    ∧ expand .abort = [.write 0x004#14 4 5#32] ∧ expand .softReset = [.write 0x004#14 4 6#32]
    ∧ expand .ack = [.write 0x008#14 4 2#32] ∧ (∀ n, expand (.wait n) = List.replicate n (.read 0x008#14 4))
    ∧ expand (.wrb i v) = [.write (0x2000#14 + i.setWidth 14) 1 (v.setWidth 32)]
    ∧ expand (.wrw i x) = [.write (0x2000#14 + i.setWidth 14) 4 x]
    ∧ expand (.rdb .fbuf i) = [.read (0x1000#14 + i.setWidth 14) 1]
    ∧ expand (.rdb .dbuf i) = [.read (0x2000#14 + i.setWidth 14) 1]


/-- The register map (R21, R61): a 4-byte read at each listed offset returns that register, and changes
nothing but the value the host holds. -/
def Obligations.RegisterMapReads : Prop :=
  ∀ (s : State) (rest : List Input) (off : BitVec 14) (v : Word),
    (off, v) ∈
      [(0x000#14, ctrlWord s.ctrl), (0x004#14, 0#32), (0x008#14, statusWord s), (0x00C#14, s.regs.arg0),
       (0x010#14, s.regs.arg1), (0x014#14, s.regs.expected), (0x018#14, s.regs.dbufLen),
       (0x01C#14, s.regs.resLo), (0x020#14, s.regs.resHi), (0x024#14, s.regs.frameLen),
       (0x028#14, s.regs.hdrFs), (0x02C#14, s.regs.hdrPd), (0x030#14, s.regs.hdrTt),
       (0x034#14, s.regs.hdrEa), (0x038#14, s.regs.authLen), (0x03C#14, s.regs.payloadOff),
       (0x040#14, s.regs.crcRx), (0x044#14, s.regs.crcCalc), (0x048#14, s.regs.frameCnt),
       (0x04C#14, s.regs.discardCnt), (0x050#14, s.regs.crcErrCnt), (0x054#14, s.regs.ealUnmappedCnt),
       (0x058#14, s.regs.logCnt), (0x05C#14, BitVec.ofNat 32 (s.eng.cursor % 2 ^ 32)),
       (0x060#14, s.regs.lastErr), (0x064#14, 0x00000073#32)] →
    s.out.inputs = .read off 4 :: rest →
      step s = .next { s with out := { s.out with inputs := rest, hostRead := some v } }

/-- The fields of STATUS as the host reads them (R24), with the reserved bits 0. -/
def Obligations.StatusReadsItsFields : Prop :=
  ∀ s : State,
    (statusWord s).toNat =
      (if s.eng.fsm = .idle then 0 else 1) + 2 * s.status.done.toNat + 4 * outcomeCode s.status.outcome
        + 2 ^ 5 * s.status.crcChecked.toNat + 2 ^ 6 * s.status.crcOk.toNat + 2 ^ 7 * s.eng.eos.toNat
        + 2 ^ 8 * errNumber s.status.errCode + 2 ^ 12 * s.status.ovr.toNat
        + 2 ^ 13 * s.status.accErr.toNat + 2 ^ 14 * s.status.frameValid.toNat
        + 2 ^ 16 * s.status.cmdOp.toNat

/-- A write of `v` to CTRL while idle (R22, R23): bits [31:6] are ignored, POLICY = 3 leaves POLICY unchanged,
and every other field takes the write; nothing but CTRL changes. -/
def Obligations.CtrlWriteIsWarl : Prop :=
  ∀ (s : State) (v : Word) (rest : List Input),
    s.eng.fsm = .idle → s.out.inputs = .write 0x000#14 4 v :: rest →
      ∃ c, step s = .next { s with ctrl := c, out := { s.out with inputs := rest } }
        ∧ (v.toNat / 2 % 4 ≠ 3 → (ctrlWord c).toNat = v.toNat % 2 ^ 6)
        ∧ (v.toNat / 2 % 4 = 3 →
            (ctrlWord c).toNat = v.toNat % 2 ^ 6 - 6 + 2 * policyCode s.ctrl.policy)
        ∧ (ctrlWord c).toNat / 2 % 4 ≠ 3

/-- A write to STATUS (R24), accepted also while busy: a 1 in bit 1, 12 or 13 clears DONE, OVR or ACCERR, and
no other bit of STATUS and nothing else reacts. -/
def Obligations.StatusWriteClears : Prop :=
  ∀ (s : State) (v : Word) (rest : List Input), s.out.inputs = .write 0x008#14 4 v :: rest →
    ∃ t, step s = .next t
      ∧ t = { s with
          out := { s.out with inputs := rest }
          status := { s.status with
            done := t.status.done, ovr := t.status.ovr, accErr := t.status.accErr } }
      ∧ (t.status.done = true ↔ s.status.done = true ∧ v.toNat / 2 ^ 1 % 2 = 0)
      ∧ (t.status.ovr = true ↔ s.status.ovr = true ∧ v.toNat / 2 ^ 12 % 2 = 0)
      ∧ (t.status.accErr = true ↔ s.status.accErr = true ∧ v.toNat / 2 ^ 13 % 2 = 0)

/-- Writes to the operand registers while idle (R26, R27, R28, R29): all 32 bits are stored and nothing else
changes. -/
def Obligations.OperandWritesStore : Prop :=
  ∀ (s : State) (v : Word) (rest : List Input), s.eng.fsm = .idle →
    let t : State := { s with out := { s.out with inputs := rest } }
    (s.out.inputs = .write 0x00C#14 4 v :: rest →
      step s = .next { t with regs := { s.regs with arg0 := v } })
    ∧ (s.out.inputs = .write 0x010#14 4 v :: rest →
      step s = .next { t with regs := { s.regs with arg1 := v } })
    ∧ (s.out.inputs = .write 0x014#14 4 v :: rest →
      step s = .next { t with regs := { s.regs with expected := v } })
    ∧ (s.out.inputs = .write 0x018#14 4 v :: rest →
      step s = .next { t with regs := { s.regs with dbufLen := v } })

/-- Writes while busy (R71, R244): to CTRL, an operand register or the DBUF window they are lost and set OVR;
to CMD they are refused the same way unless they are SOFT_RESET, or ABORT in a reading state. -/
def Obligations.BusyWritesAreLost : Prop :=
  ∀ (s : State) (off : BitVec 14) (width : Nat) (v : Word) (rest : List Input),
    s.eng.fsm ≠ .idle → s.out.inputs = .write off width v :: rest →
      let lost : State := { s with
        status := { s.status with ovr := true }, out := { s.out with inputs := rest } }
      (width = 4 → off ∈ [0x000#14, 0x00C#14, 0x010#14, 0x014#14, 0x018#14] → step s = .next lost)
      ∧ (0x2000 ≤ off.toNat → off.toNat < 0x2800 → (width = 1 ∨ width = 4 ∧ off.toNat % 4 = 0) →
          step s = .next lost)
      ∧ (width = 4 → off = 0x004#14 →
          (∀ i, decode v = .ok i → (∀ b c, i ≠ .softReset b c)
            ∧ (s.eng.fsm = .exec ∨ ∀ b c, i ≠ .abort b c)) →
          step s = .next lost)

/-- Writes to a read-only register and admitted writes to the FBUF window are ignored: no effect, no OVR and
no ACCERR, busy or not (R21, R42, R61, R62, R71). -/
def Obligations.ReadOnlyWritesIgnored : Prop :=
  ∀ (s : State) (off : BitVec 14) (width : Nat) (v : Word) (rest : List Input),
    s.out.inputs = .write off width v :: rest →
    ((width = 4 ∧ 0x01C ≤ off.toNat ∧ off.toNat ≤ 0x064 ∧ off.toNat % 4 = 0)
      ∨ (0x1000 ≤ off.toNat ∧ off.toNat < 0x1800 ∧ (width = 1 ∨ width = 4 ∧ off.toNat % 4 = 0))) →
      step s = .next { s with out := { s.out with inputs := rest } }

/-- Accesses not admitted (R63): exactly those that are neither a 4-byte aligned access to a register, nor a
1-byte access or 4-byte aligned access to a buffer window. A write sets ACCERR and nothing else; a read
returns 0 and sets ACCERR. -/
def Obligations.UnadmittedAccessSetsAccerr : Prop :=
  ∀ (s : State) (off : BitVec 14) (width : Nat) (v : Word) (rest : List Input),
    ¬ (width = 4 ∧ off.toNat % 4 = 0 ∧ off.toNat ≤ 0x064) →
    ¬ (0x1000 ≤ off.toNat ∧ off.toNat < 0x1800 ∧ (width = 1 ∨ width = 4 ∧ off.toNat % 4 = 0)) →
    ¬ (0x2000 ≤ off.toNat ∧ off.toNat < 0x2800 ∧ (width = 1 ∨ width = 4 ∧ off.toNat % 4 = 0)) →
      (s.out.inputs = .write off width v :: rest →
        step s = .next { s with
          status := { s.status with accErr := true }, out := { s.out with inputs := rest } })
      ∧ (s.out.inputs = .read off width :: rest →
        step s = .next { s with
          status := { s.status with accErr := true }
          out := { s.out with inputs := rest, hostRead := some 0#32 } })

/-- Reads of a buffer window (R62, R68): a 1-byte read returns the byte, a 4-byte aligned read returns four
bytes with the lowest offset in bits [7:0]; nothing but the host's value changes (R69). -/
def Obligations.WindowReads : Prop :=
  ∀ (s : State) (off : BitVec 14) (rest : List Input),
    (0x1000 ≤ off.toNat ∧ off.toNat < 0x1800 ∨ 0x2000 ≤ off.toNat ∧ off.toNat < 0x2800) →
      (s.out.inputs = .read off 1 :: rest →
        step s = .next { s with
          out := { s.out with
            inputs := rest, hostRead := some (BitVec.ofNat 32 (byteAt s off.toNat).toNat) } })
      ∧ (off.toNat % 4 = 0 → s.out.inputs = .read off 4 :: rest →
        ∃ v, step s = .next { s with out := { s.out with inputs := rest, hostRead := some v } }
          ∧ v.toNat = (byteAt s off.toNat).toNat + 2 ^ 8 * (byteAt s (off.toNat + 1)).toNat
              + 2 ^ 16 * (byteAt s (off.toNat + 2)).toNat + 2 ^ 24 * (byteAt s (off.toNat + 3)).toNat)

/-- Writes to the DBUF window while idle (R62): a 1-byte write stores the low byte of the value, a 4-byte
aligned write stores four bytes in little-endian lanes, every other byte of both buffers reads as before, and
nothing else changes. -/
def Obligations.WindowWrites : Prop :=
  ∀ (s : State) (off : BitVec 14) (v : Word) (rest : List Input),
    s.eng.fsm = .idle → 0x2000 ≤ off.toNat → off.toNat < 0x2800 →
      (s.out.inputs = .write off 1 v :: rest →
        ∃ m, step s = .next { s with mem := m, out := { s.out with inputs := rest } }
          ∧ ∀ t : State, t = { s with mem := m } →
              (byteAt t off.toNat).toNat = v.toNat % 2 ^ 8
              ∧ ∀ a, a ≠ off.toNat → byteAt t a = byteAt s a)
      ∧ (off.toNat % 4 = 0 → s.out.inputs = .write off 4 v :: rest →
        ∃ m, step s = .next { s with mem := m, out := { s.out with inputs := rest } }
          ∧ ∀ t : State, t = { s with mem := m } →
              (∀ k, k < 4 → (byteAt t (off.toNat + k)).toNat = v.toNat / 2 ^ (8 * k) % 2 ^ 8)
              ∧ ∀ a, (∀ k, k < 4 → a ≠ off.toNat + k) → byteAt t a = byteAt s a)

/-- The interrupt line (R214) is CTRL.IE AND STATUS.DONE as the host reads them; completing a command raises
it when IE = 1, a write of 1 to DONE lowers it, and so do the start of a command that does not complete in its
start step, and reset; an error that is only logged leaves it alone. -/
def Obligations.InterruptFollowsDone : Prop :=
  (∀ s : State, irq s = ((regValue s .ctrl).getLsbD 5 && (regValue s .status).getLsbD 1))
  ∧ (∀ (s : State) (o : CmdOutcome) (c : ErrCode), irq (complete o c s) = s.ctrl.ie)
  ∧ (∀ (s t : State) (v : Word) (rest : List Input), s.out.inputs = .write 0x008#14 4 v :: rest →
      v.toNat / 2 % 2 = 1 → step s = .next t → irq t = false)
  ∧ (∀ (i : Instr) (s t : State), s.eng.fsm = .idle → exec i s = .next t → t.eng.fsm ≠ .idle →
      irq t = false)
  ∧ (∀ s t : State, ∀ rest, s.out.inputs = .rst :: rest → step s = .next t → irq t = false)
  ∧ (∀ (s : State) (c : ErrCode), s.ctrl.policy = .logAndContinue → irq (recoverable c s) = irq s)

/-! ## Reset -/

/-- Hardware reset, from every state (R240, R241, R242): CTRL reads 0x00000003, PREAMBLE 0x00000073 and every
other register 0; the hidden state is the reset state; no byte of FBUF or DBUF is specified; irq and src_ready
are 0; and the source's offered events stay offered. The model's own: the cursor is 0 (DEDUCED, assumption 7), and
an unspecified buffer is an empty list (DESIGN CHOICE, assumption 3). -/
def Obligations.HardwareResetValues : Prop :=
  ∀ (s : State) (rest : List Input), s.out.inputs = .rst :: rest →
    ∃ t, step s = .next t
      ∧ regValue t .ctrl = 0x00000003#32 ∧ regValue t .preamble = 0x00000073#32
      ∧ (∀ r : Reg, r ≠ .ctrl → r ≠ .preamble → regValue t r = 0#32)
      ∧ t.eng = { fsm := .idle, need := 0, pos := 0, fPl := 0#10, fEaf := false, fCt := .crc8,
                  fTtt := false, fAi := 0#3, fEalc := 0#3, fAuth := 0, op := none, eos := false,
                  cursor := 0 }
      ∧ t.mem = [] ∧ irq t = false ∧ srcReady t = false ∧ t.out.src = s.out.src

/-- The state after power-on reset (R241): the register values the host reads, the hidden state, and no
specified buffer byte, which the model holds as an empty list (DESIGN CHOICE, assumption 3). -/
def Obligations.ResetStateValues : Prop :=
  regValue State.reset .ctrl = 0x00000003#32 ∧ regValue State.reset .preamble = 0x00000073#32
    ∧ (∀ r : Reg, r ≠ .ctrl → r ≠ .preamble → regValue State.reset r = 0#32)
    ∧ State.reset.eng.fsm = .idle ∧ State.reset.eng.eos = false ∧ State.reset.eng.op = none
    ∧ State.reset.mem = [] ∧ irq State.reset = false ∧ srcReady State.reset = false

/-! ## Invariants and whole-machine rules -/

/-- The reset state meets the invariant. -/
def Obligations.ResetMeetsInvariant : Prop := Inv State.reset

/-- Every step from every state that meets the invariant gives a state that meets it: `need` and `pos` count
the frame's bytes exactly, no register leaves its range, reserved bits read 0, STATUS agrees with the engine,
the buffers keep their canonical form, and FBUF[0..FRAME_LEN) is written and begins with the preamble. -/
def Obligations.StepKeepsInvariant : Prop :=
  ∀ s t : State, Inv s → step s = .next t → Inv t

/-- From a state of the invariant no step faults, and the only refusal is a source that offers an event after
it has ended the stream (R64, R142). -/
def Obligations.InvariantStatesNeverFault : Prop :=
  ∀ s : State, Inv s →
    notFault (step s) = true
    ∧ (isNext (step s) = false → s.out.srcEnded = true ∧ ∃ e rest, s.out.inputs = .offer e :: rest)

/-- Once the stream has ended, `eos` stays set until hardware reset or SOFT_RESET (R24, R48, R183). -/
def Obligations.EosClearedOnlyByReset : Prop :=
  ∀ s t : State, step s = .next t → s.eng.eos = true → t.eng.eos = false →
    (∃ rest, s.out.inputs = .rst :: rest)
    ∨ (∃ w rest b c, s.out.inputs = .write 0x004#14 4 w :: rest ∧ decode w = .ok (.softReset b c))

/-- CTRL and the operand registers change only by a host write, SOFT_RESET or reset, and not at all while a
command runs (R22, R46, R70, R71). -/
def Obligations.OperandsStableWhileBusy : Prop :=
  ∀ s t : State, step s = .next t →
    ((∀ off width v rest, s.out.inputs ≠ .write off width v :: rest) → (∀ rest, s.out.inputs ≠ .rst :: rest) →
      t.ctrl = s.ctrl ∧ t.regs.arg0 = s.regs.arg0 ∧ t.regs.arg1 = s.regs.arg1
        ∧ t.regs.expected = s.regs.expected ∧ t.regs.dbufLen = s.regs.dbufLen)
    ∧ (s.eng.fsm ≠ .idle → t.eng.fsm ≠ .idle →
      t.ctrl = s.ctrl ∧ t.regs.arg0 = s.regs.arg0 ∧ t.regs.arg1 = s.regs.arg1
        ∧ t.regs.expected = s.regs.expected ∧ t.regs.dbufLen = s.regs.dbufLen)

/-- The byte cursor (R40, R47, R156): an engine step adds 1 to it exactly when it takes a byte, and every
source event is taken at most once, in order; no engine step changes the host's list. -/
def Obligations.CursorCountsTakenBytes : Prop :=
  ∀ s t : State, engineStep s = .next t →
    t.out.inputs = s.out.inputs
    ∧ ((t.out.src = s.out.src ∧ t.eng.cursor = s.eng.cursor)
      ∨ (∃ b, s.out.src = .byte b :: t.out.src ∧ t.eng.cursor = s.eng.cursor + 1)
      ∨ (∃ e, s.out.src = e :: t.out.src ∧ (e = .eos ∨ e = .err) ∧ t.eng.cursor = s.eng.cursor))

/-- FRAME_CNT counts exactly the READ_NEXTs that end with OK (R40, decision D39): an engine step in a reading
state adds 1 to it, modulo 2^32, exactly when it completes with OUTCOME = OK, and then FRAME_VALID is set. -/
def Obligations.FrameCountCountsDeliveries : Prop :=
  ∀ s t : State, Inv s → s.eng.fsm.reading = true → engineStep s = .next t →
    (t.status.outcome = .ok → t.eng.fsm = .idle ∧ t.status.frameValid = true
      ∧ t.regs.frameCnt = s.regs.frameCnt + 1#32)
    ∧ (t.status.outcome ≠ .ok → t.regs.frameCnt = s.regs.frameCnt ∧ t.status.frameValid = false)

/-- The outcomes of a READ_NEXT (R183, R184, R211): ERROR comes only under RAISE and with one of the three
recoverable codes, STREAM_ERROR only with EOF or SOURCE_ERROR, and OUTCOME stays NONE while it runs. -/
def Obligations.ReadOutcomesByPolicy : Prop :=
  ∀ s t : State, Inv s → s.eng.fsm.reading = true → engineStep s = .next t →
    (t.status.outcome = .error → s.ctrl.policy = .raise
      ∧ t.status.errCode ∈ [ErrCode.crcMismatch, .ealUnmapped, .unknownProtocol])
    ∧ (t.status.outcome = .streamError → t.status.errCode ∈ [ErrCode.eof, .sourceError]
      ∧ t.eng.eos = true)
    ∧ (t.eng.fsm ≠ .idle → t.status.outcome = .none ∧ t.status.done = false)
    ∧ (t.eng.fsm = .idle → t.status.done = true ∧ t.status.outcome ≠ .none)

/-- Termination (R158, point 4): a READ_NEXT over a source whose offered bytes end with Eos or Err completes
within one engine step per event. Either it takes that end, and exactly what follows it stays offered, or it
completes before it, and the last of the bytes and the end stay offered. -/
def Obligations.ReadNextTerminates : Prop :=
  ∀ (s : State) (l : List Byte) (e : SrcEvent) (rest : List SrcEvent),
    Inv s → s.eng.fsm.reading = true → (e = .eos ∨ e = .err) → s.out.src = l.map .byte ++ e :: rest →
      ∃ n t, n ≤ l.length + 1 ∧ engineRun n s = .next t ∧ t.eng.fsm = .idle ∧ t.status.done = true
        ∧ ((t.eng.eos = true ∧ t.out.src = rest)
          ∨ (t.eng.eos = false ∧ ∃ l' : List Byte, l' <:+ l ∧ t.out.src = l'.map .byte ++ e :: rest))

/-! ## The extractor, the CRC and the wire format -/

/-- The definition of `ext` (R110): the sum over the field's bits, most significant first, where bit k of a
byte sequence is `(buf[k div 8] >> (7 - (k mod 8))) & 1`. -/
def Obligations.ExtIsTheBitSum : Prop :=
  ∀ (buf : List Byte) (off n : Nat), 1 ≤ n → n ≤ 64 → (off + n + 7) / 8 ≤ buf.length →
    ext buf off n =
      ((List.range n).map
        (fun i => (buf.getD ((off + i) / 8) 0#8).toNat / 2 ^ (7 - (off + i) % 8) % 2 * 2 ^ (n - 1 - i))).sum

/-- The laws of `ext` (R111): the bound, byte alignment, concatenation, and that only the bytes the field
lies in matter. Stated without R110's precondition: outside it they are laws of the model's total `ext` (DESIGN
CHOICE, assumption 20), not of R111. -/
def Obligations.ExtLaws : Prop :=
  (∀ (buf : List Byte) (off n : Nat), ext buf off n < 2 ^ n)
  ∧ (∀ (buf : List Byte) (j m : Nat), j + m ≤ buf.length →
      ext buf (8 * j) (8 * m) = beNat ((buf.drop j).take m))
  ∧ (∀ (buf : List Byte) (off a b : Nat),
      ext buf off (a + b) = ext buf off a * 2 ^ b + ext buf (off + a) b)
  ∧ (∀ (buf buf' : List Byte) (off n : Nat),
      (∀ i, off / 8 ≤ i → i ≤ (off + n - 1) / 8 → buf.getD i 0#8 = buf'.getD i 0#8) →
      ext buf off n = ext buf' off n)

/-- The CRC detects every single-bit error (R128), for every parameter set whose polynomial has bit 0 set,
for each width of at least 8 bits. -/
def Obligations.CrcDetectsSingleBitErrors : Prop :=
  ∀ (w : Nat) (p : CrcParams w) (pre post : List Byte) (b : Byte) (k : Nat),
    8 ≤ w → p.poly.getLsbD 0 = true → k < 8 →
      crc p (pre ++ b :: post) ≠ crc p (pre ++ (b ^^^ (1#8 <<< k)) :: post)

/-- The length of an encoded frame (R96), and its range 9 to 1103 (R100, R101). -/
def Obligations.FrameLengthFormula : Prop :=
  ∀ f : Frame, f.wf = true →
    (encodeFrame f).length =
      1 + 3 + 4 + 2 * (frameTtt f).toNat + 2 * (frameEaf f).toNat + f.payload.length + f.authBytes
        + crcCode f.crcType + 1
    ∧ 9 ≤ (encodeFrame f).length ∧ (encodeFrame f).length ≤ 1103

/-- Round trip (R158, points 1 and 3): a frame with any field values, payload and auth content, encoded with a
correct trailer under CRC_PARAMS, after any number of bytes other than the preamble and before anything, is
delivered by one READ_NEXT: OUTCOME = OK, FBUF[0..FRAME_LEN) equal to the encoded bytes, every header register
equal to the encoded fields, exactly the frame's bytes and the discarded ones taken. -/
def Obligations.WireFrameRoundTrip : Prop :=
  ∀ (f : Frame) (junk : List Byte) (after : List SrcEvent) (s : State),
    f.wf = true → (f.authMapped = true ∨ s.ctrl.strictEal = false) →
    (∀ b ∈ junk, b ≠ Config.preamble) → (s.ctrl.upe = false ∨ s.ctrl.policy ≠ .raise) →
    s.eng.fsm = .idle → s.eng.eos = false → s.out.inputs = expand .readNext →
    s.out.src = (junk ++ encodeFrame f).map .byte ++ after →
      ∃ t, Host.Core.run Sys2Proof.core (1 + junk.length + (encodeFrame f).length) s = .next t
        ∧ t.eng.fsm = .idle ∧ t.status.done = true ∧ t.status.outcome = .ok
        ∧ t.status.errCode = .none ∧ t.status.cmdOp = 1#4 ∧ t.status.frameValid = true
        ∧ t.status.crcChecked = s.ctrl.crcEn ∧ t.status.crcOk = s.ctrl.crcEn
        ∧ t.regs.frameLen.toNat = (encodeFrame f).length
        ∧ bufSlice t .fbuf 0 (encodeFrame f).length = encodeFrame f
        ∧ t.regs.hdrFs = frameHdrFs f ∧ t.regs.hdrPd = frameHdrPd f ∧ t.regs.hdrTt = frameHdrTt f
        ∧ t.regs.hdrEa = frameHdrEa f ∧ t.regs.payloadOff.toNat = framePayloadOff f
        ∧ t.regs.authLen.toNat = f.authBytes ∧ t.regs.crcRx = crcWord f.crcType (coreBytes f)
        ∧ t.regs.frameCnt = s.regs.frameCnt + 1#32
        ∧ t.regs.discardCnt = s.regs.discardCnt + BitVec.ofNat 32 junk.length
        ∧ t.eng.cursor = s.eng.cursor + junk.length + (encodeFrame f).length
        ∧ t.out.src = after
end

