-- ==== Sys2Proof/Laws/State.lean ====
section
/-!
SUPPORT. One lemma per field of the state and named update: what the update leaves in that field. All by
`rfl`, so that no later proof unfolds a record update.
-/

namespace Sys2Proof.Machine

section setOvr

@[simp] theorem setOvr_ctrl (s : State) :
    (setOvr s).ctrl = s.ctrl := rfl

@[simp] theorem setOvr_status (s : State) :
    (setOvr s).status = { s.status with ovr := true } := rfl

@[simp] theorem setOvr_regs (s : State) :
    (setOvr s).regs = s.regs := rfl

@[simp] theorem setOvr_mem (s : State) :
    (setOvr s).mem = s.mem := rfl

@[simp] theorem setOvr_eng (s : State) :
    (setOvr s).eng = s.eng := rfl

@[simp] theorem setOvr_out (s : State) :
    (setOvr s).out = s.out := rfl

@[simp] theorem setOvr_free (s : State) :
    (setOvr s).free = s.free := rfl

end setOvr

section setAccErr

@[simp] theorem setAccErr_ctrl (s : State) :
    (setAccErr s).ctrl = s.ctrl := rfl

@[simp] theorem setAccErr_status (s : State) :
    (setAccErr s).status = { s.status with accErr := true } := rfl

@[simp] theorem setAccErr_regs (s : State) :
    (setAccErr s).regs = s.regs := rfl

@[simp] theorem setAccErr_mem (s : State) :
    (setAccErr s).mem = s.mem := rfl

@[simp] theorem setAccErr_eng (s : State) :
    (setAccErr s).eng = s.eng := rfl

@[simp] theorem setAccErr_out (s : State) :
    (setAccErr s).out = s.out := rfl

@[simp] theorem setAccErr_free (s : State) :
    (setAccErr s).free = s.free := rfl

end setAccErr

section beginCommand

@[simp] theorem beginCommand_ctrl (op : BitVec 4) (s : State) :
    (beginCommand op s).ctrl = s.ctrl := rfl

@[simp] theorem beginCommand_status (op : BitVec 4) (s : State) :
    (beginCommand op s).status = { s.status with done := false, outcome := .none, errCode := .none, cmdOp := op } := rfl

@[simp] theorem beginCommand_regs (op : BitVec 4) (s : State) :
    (beginCommand op s).regs = s.regs := rfl

@[simp] theorem beginCommand_mem (op : BitVec 4) (s : State) :
    (beginCommand op s).mem = s.mem := rfl

@[simp] theorem beginCommand_eng (op : BitVec 4) (s : State) :
    (beginCommand op s).eng = s.eng := rfl

@[simp] theorem beginCommand_out (op : BitVec 4) (s : State) :
    (beginCommand op s).out = s.out := rfl

@[simp] theorem beginCommand_free (op : BitVec 4) (s : State) :
    (beginCommand op s).free = s.free := rfl

end beginCommand

section logError

@[simp] theorem logError_ctrl (c : ErrCode) (f r : Bool) (s : State) :
    (logError c f r s).ctrl = s.ctrl := rfl

@[simp] theorem logError_status (c : ErrCode) (f r : Bool) (s : State) :
    (logError c f r s).status = s.status := rfl

@[simp] theorem logError_regs (c : ErrCode) (f r : Bool) (s : State) :
    (logError c f r s).regs = { s.regs with
        lastErr := lastErrWord c f r
        logCnt := if r then s.regs.logCnt else s.regs.logCnt + 1#32 } := rfl

@[simp] theorem logError_mem (c : ErrCode) (f r : Bool) (s : State) :
    (logError c f r s).mem = s.mem := rfl

@[simp] theorem logError_eng (c : ErrCode) (f r : Bool) (s : State) :
    (logError c f r s).eng = s.eng := rfl

@[simp] theorem logError_out (c : ErrCode) (f r : Bool) (s : State) :
    (logError c f r s).out = s.out := rfl

@[simp] theorem logError_free (c : ErrCode) (f r : Bool) (s : State) :
    (logError c f r s).free = s.free := rfl

end logError

section bufStore

@[simp] theorem bufStore_ctrl (s : State) (b : Source) (i : Nat) (v : Byte) :
    (bufStore s b i v).ctrl = s.ctrl := rfl

@[simp] theorem bufStore_status (s : State) (b : Source) (i : Nat) (v : Byte) :
    (bufStore s b i v).status = s.status := rfl

@[simp] theorem bufStore_regs (s : State) (b : Source) (i : Nat) (v : Byte) :
    (bufStore s b i v).regs = s.regs := rfl

@[simp] theorem bufStore_mem (s : State) (b : Source) (i : Nat) (v : Byte) :
    (bufStore s b i v).mem = memStore s.mem (bufBase b + i) v := rfl

@[simp] theorem bufStore_eng (s : State) (b : Source) (i : Nat) (v : Byte) :
    (bufStore s b i v).eng = s.eng := rfl

@[simp] theorem bufStore_out (s : State) (b : Source) (i : Nat) (v : Byte) :
    (bufStore s b i v).out = s.out := rfl

@[simp] theorem bufStore_free (s : State) (b : Source) (i : Nat) (v : Byte) :
    (bufStore s b i v).free = s.free := rfl

end bufStore

section setResult

@[simp] theorem setResult_ctrl (lo hi : Word) (s : State) :
    (setResult lo hi s).ctrl = s.ctrl := rfl

@[simp] theorem setResult_status (lo hi : Word) (s : State) :
    (setResult lo hi s).status = s.status := rfl

@[simp] theorem setResult_regs (lo hi : Word) (s : State) :
    (setResult lo hi s).regs = { s.regs with resLo := lo, resHi := hi } := rfl

@[simp] theorem setResult_mem (lo hi : Word) (s : State) :
    (setResult lo hi s).mem = s.mem := rfl

@[simp] theorem setResult_eng (lo hi : Word) (s : State) :
    (setResult lo hi s).eng = s.eng := rfl

@[simp] theorem setResult_out (lo hi : Word) (s : State) :
    (setResult lo hi s).out = s.out := rfl

@[simp] theorem setResult_free (lo hi : Word) (s : State) :
    (setResult lo hi s).free = s.free := rfl

end setResult

section enterChunk

@[simp] theorem enterChunk_ctrl (f : Fsm) (n : Nat) (s : State) :
    (enterChunk f n s).ctrl = s.ctrl := rfl

@[simp] theorem enterChunk_status (f : Fsm) (n : Nat) (s : State) :
    (enterChunk f n s).status = s.status := rfl

@[simp] theorem enterChunk_regs (f : Fsm) (n : Nat) (s : State) :
    (enterChunk f n s).regs = s.regs := rfl

@[simp] theorem enterChunk_mem (f : Fsm) (n : Nat) (s : State) :
    (enterChunk f n s).mem = s.mem := rfl

@[simp] theorem enterChunk_eng (f : Fsm) (n : Nat) (s : State) :
    (enterChunk f n s).eng = { s.eng with fsm := f, need := n } := rfl

@[simp] theorem enterChunk_out (f : Fsm) (n : Nat) (s : State) :
    (enterChunk f n s).out = s.out := rfl

@[simp] theorem enterChunk_free (f : Fsm) (n : Nat) (s : State) :
    (enterChunk f n s).free = s.free := rfl

end enterChunk

section enterExec

@[simp] theorem enterExec_ctrl (k : ExecKind) (b : Source) (c : CrcSel) (s : State) :
    (enterExec k b c s).ctrl = s.ctrl := rfl

@[simp] theorem enterExec_status (k : ExecKind) (b : Source) (c : CrcSel) (s : State) :
    (enterExec k b c s).status = s.status := rfl

@[simp] theorem enterExec_regs (k : ExecKind) (b : Source) (c : CrcSel) (s : State) :
    (enterExec k b c s).regs = s.regs := rfl

@[simp] theorem enterExec_mem (k : ExecKind) (b : Source) (c : CrcSel) (s : State) :
    (enterExec k b c s).mem = s.mem := rfl

@[simp] theorem enterExec_eng (k : ExecKind) (b : Source) (c : CrcSel) (s : State) :
    (enterExec k b c s).eng = { s.eng with
        fsm := .exec
        op := some
          { kind := k, src := b, crcw := c, arg0 := s.regs.arg0, arg1 := s.regs.arg1,
            expected := s.regs.expected, dbufLen := s.regs.dbufLen } } := rfl

@[simp] theorem enterExec_out (k : ExecKind) (b : Source) (c : CrcSel) (s : State) :
    (enterExec k b c s).out = s.out := rfl

@[simp] theorem enterExec_free (k : ExecKind) (b : Source) (c : CrcSel) (s : State) :
    (enterExec k b c s).free = { s.free with work := Config.execLatency s.free.draws, draws := s.free.draws + 1 } := rfl

end enterExec

section takeChunkByte

@[simp] theorem takeChunkByte_ctrl (b : Byte) (s : State) :
    (takeChunkByte b s).ctrl = s.ctrl := rfl

@[simp] theorem takeChunkByte_status (b : Byte) (s : State) :
    (takeChunkByte b s).status = s.status := rfl

@[simp] theorem takeChunkByte_regs (b : Byte) (s : State) :
    (takeChunkByte b s).regs = s.regs := rfl

@[simp] theorem takeChunkByte_mem (b : Byte) (s : State) :
    (takeChunkByte b s).mem = memStore s.mem (Config.fbufBase + s.eng.pos) b := rfl

@[simp] theorem takeChunkByte_eng (b : Byte) (s : State) :
    (takeChunkByte b s).eng = { s.eng with cursor := s.eng.cursor + 1, pos := s.eng.pos + 1, need := s.eng.need - 1 } := rfl

@[simp] theorem takeChunkByte_out (b : Byte) (s : State) :
    (takeChunkByte b s).out = s.out := rfl

@[simp] theorem takeChunkByte_free (b : Byte) (s : State) :
    (takeChunkByte b s).free = s.free := rfl

end takeChunkByte

section countByte

@[simp] theorem countByte_ctrl (s : State) :
    (countByte s).ctrl = s.ctrl := rfl

@[simp] theorem countByte_status (s : State) :
    (countByte s).status = s.status := rfl

@[simp] theorem countByte_regs (s : State) :
    (countByte s).regs = s.regs := rfl

@[simp] theorem countByte_mem (s : State) :
    (countByte s).mem = s.mem := rfl

@[simp] theorem countByte_eng (s : State) :
    (countByte s).eng = { s.eng with cursor := s.eng.cursor + 1 } := rfl

@[simp] theorem countByte_out (s : State) :
    (countByte s).out = s.out := rfl

@[simp] theorem countByte_free (s : State) :
    (countByte s).free = s.free := rfl

end countByte

section startAttempt

@[simp] theorem startAttempt_ctrl (b : Byte) (s : State) :
    (startAttempt b s).ctrl = s.ctrl := rfl

@[simp] theorem startAttempt_status (b : Byte) (s : State) :
    (startAttempt b s).status = s.status := rfl

@[simp] theorem startAttempt_regs (b : Byte) (s : State) :
    (startAttempt b s).regs = s.regs := rfl

@[simp] theorem startAttempt_mem (b : Byte) (s : State) :
    (startAttempt b s).mem = memStore s.mem Config.fbufBase b := rfl

@[simp] theorem startAttempt_eng (b : Byte) (s : State) :
    (startAttempt b s).eng = { s.eng with pos := 1, need := 3, fsm := .fs } := rfl

@[simp] theorem startAttempt_out (b : Byte) (s : State) :
    (startAttempt b s).out = s.out := rfl

@[simp] theorem startAttempt_free (b : Byte) (s : State) :
    (startAttempt b s).free = s.free := rfl

end startAttempt

section countDiscard

@[simp] theorem countDiscard_ctrl (s : State) :
    (countDiscard s).ctrl = s.ctrl := rfl

@[simp] theorem countDiscard_status (s : State) :
    (countDiscard s).status = s.status := rfl

@[simp] theorem countDiscard_regs (s : State) :
    (countDiscard s).regs = { s.regs with discardCnt := s.regs.discardCnt + 1#32 } := rfl

@[simp] theorem countDiscard_mem (s : State) :
    (countDiscard s).mem = s.mem := rfl

@[simp] theorem countDiscard_eng (s : State) :
    (countDiscard s).eng = s.eng := rfl

@[simp] theorem countDiscard_out (s : State) :
    (countDiscard s).out = s.out := rfl

@[simp] theorem countDiscard_free (s : State) :
    (countDiscard s).free = s.free := rfl

end countDiscard

section countUnmapped

@[simp] theorem countUnmapped_ctrl (s : State) :
    (countUnmapped s).ctrl = s.ctrl := rfl

@[simp] theorem countUnmapped_status (s : State) :
    (countUnmapped s).status = s.status := rfl

@[simp] theorem countUnmapped_regs (s : State) :
    (countUnmapped s).regs = { s.regs with ealUnmappedCnt := s.regs.ealUnmappedCnt + 1#32 } := rfl

@[simp] theorem countUnmapped_mem (s : State) :
    (countUnmapped s).mem = s.mem := rfl

@[simp] theorem countUnmapped_eng (s : State) :
    (countUnmapped s).eng = s.eng := rfl

@[simp] theorem countUnmapped_out (s : State) :
    (countUnmapped s).out = s.out := rfl

@[simp] theorem countUnmapped_free (s : State) :
    (countUnmapped s).free = s.free := rfl

end countUnmapped

section recordLength

@[simp] theorem recordLength_ctrl (s : State) :
    (recordLength s).ctrl = s.ctrl := rfl

@[simp] theorem recordLength_status (s : State) :
    (recordLength s).status = s.status := rfl

@[simp] theorem recordLength_regs (s : State) :
    (recordLength s).regs = { s.regs with frameLen := BitVec.ofNat 32 s.eng.pos } := rfl

@[simp] theorem recordLength_mem (s : State) :
    (recordLength s).mem = s.mem := rfl

@[simp] theorem recordLength_eng (s : State) :
    (recordLength s).eng = s.eng := rfl

@[simp] theorem recordLength_out (s : State) :
    (recordLength s).out = s.out := rfl

@[simp] theorem recordLength_free (s : State) :
    (recordLength s).free = s.free := rfl

end recordLength

section setAuth

@[simp] theorem setAuth_ctrl (n : Nat) (s : State) :
    (setAuth n s).ctrl = s.ctrl := rfl

@[simp] theorem setAuth_status (n : Nat) (s : State) :
    (setAuth n s).status = s.status := rfl

@[simp] theorem setAuth_regs (n : Nat) (s : State) :
    (setAuth n s).regs = { s.regs with authLen := BitVec.ofNat 32 n } := rfl

@[simp] theorem setAuth_mem (n : Nat) (s : State) :
    (setAuth n s).mem = s.mem := rfl

@[simp] theorem setAuth_eng (n : Nat) (s : State) :
    (setAuth n s).eng = { s.eng with fAuth := n } := rfl

@[simp] theorem setAuth_out (n : Nat) (s : State) :
    (setAuth n s).out = s.out := rfl

@[simp] theorem setAuth_free (n : Nat) (s : State) :
    (setAuth n s).free = s.free := rfl

end setAuth

section latchTtt

@[simp] theorem latchTtt_ctrl (s : State) :
    (latchTtt s).ctrl = s.ctrl := rfl

@[simp] theorem latchTtt_status (s : State) :
    (latchTtt s).status = s.status := rfl

@[simp] theorem latchTtt_regs (s : State) :
    (latchTtt s).regs = s.regs := rfl

@[simp] theorem latchTtt_mem (s : State) :
    (latchTtt s).mem = s.mem := rfl

@[simp] theorem latchTtt_eng (s : State) :
    (latchTtt s).eng = { s.eng with fTtt := decide (ext (bufSlice s .fbuf 4 4) 4 1 = 1) } := rfl

@[simp] theorem latchTtt_out (s : State) :
    (latchTtt s).out = s.out := rfl

@[simp] theorem latchTtt_free (s : State) :
    (latchTtt s).free = s.free := rfl

end latchTtt

section recordCrc

@[simp] theorem recordCrc_ctrl (s : State) :
    (recordCrc s).ctrl = s.ctrl := rfl

@[simp] theorem recordCrc_status (s : State) :
    (recordCrc s).status = { s.status with
        crcChecked := s.ctrl.crcEn
        crcOk := s.ctrl.crcEn && decide (coreCrc s = receivedCrc s) } := rfl

@[simp] theorem recordCrc_regs (s : State) :
    (recordCrc s).regs = { s.regs with
        crcRx := receivedCrc s
        frameLen := BitVec.ofNat 32 s.eng.pos
        crcCalc := if s.ctrl.crcEn then coreCrc s else 0#32 } := rfl

@[simp] theorem recordCrc_mem (s : State) :
    (recordCrc s).mem = s.mem := rfl

@[simp] theorem recordCrc_eng (s : State) :
    (recordCrc s).eng = s.eng := rfl

@[simp] theorem recordCrc_out (s : State) :
    (recordCrc s).out = s.out := rfl

@[simp] theorem recordCrc_free (s : State) :
    (recordCrc s).free = s.free := rfl

end recordCrc

section latchEos

@[simp] theorem latchEos_ctrl (s : State) :
    (latchEos s).ctrl = s.ctrl := rfl

@[simp] theorem latchEos_status (s : State) :
    (latchEos s).status = s.status := rfl

@[simp] theorem latchEos_regs (s : State) :
    (latchEos s).regs = s.regs := rfl

@[simp] theorem latchEos_mem (s : State) :
    (latchEos s).mem = s.mem := rfl

@[simp] theorem latchEos_eng (s : State) :
    (latchEos s).eng = { s.eng with eos := true } := rfl

@[simp] theorem latchEos_out (s : State) :
    (latchEos s).out = s.out := rfl

@[simp] theorem latchEos_free (s : State) :
    (latchEos s).free = s.free := rfl

end latchEos

section clearFrameFlags

@[simp] theorem clearFrameFlags_ctrl (s : State) :
    (clearFrameFlags s).ctrl = s.ctrl := rfl

@[simp] theorem clearFrameFlags_status (s : State) :
    (clearFrameFlags s).status = { s.status with frameValid := false, crcChecked := false, crcOk := false } := rfl

@[simp] theorem clearFrameFlags_regs (s : State) :
    (clearFrameFlags s).regs = s.regs := rfl

@[simp] theorem clearFrameFlags_mem (s : State) :
    (clearFrameFlags s).mem = s.mem := rfl

@[simp] theorem clearFrameFlags_eng (s : State) :
    (clearFrameFlags s).eng = s.eng := rfl

@[simp] theorem clearFrameFlags_out (s : State) :
    (clearFrameFlags s).out = s.out := rfl

@[simp] theorem clearFrameFlags_free (s : State) :
    (clearFrameFlags s).free = s.free := rfl

end clearFrameFlags

section enterSeek

@[simp] theorem enterSeek_ctrl (s : State) :
    (enterSeek s).ctrl = s.ctrl := rfl

@[simp] theorem enterSeek_status (s : State) :
    (enterSeek s).status = s.status := rfl

@[simp] theorem enterSeek_regs (s : State) :
    (enterSeek s).regs = s.regs := rfl

@[simp] theorem enterSeek_mem (s : State) :
    (enterSeek s).mem = s.mem := rfl

@[simp] theorem enterSeek_eng (s : State) :
    (enterSeek s).eng = { s.eng with fsm := .seek } := rfl

@[simp] theorem enterSeek_out (s : State) :
    (enterSeek s).out = s.out := rfl

@[simp] theorem enterSeek_free (s : State) :
    (enterSeek s).free = s.free := rfl

end enterSeek

section clearForSoftReset

@[simp] theorem clearForSoftReset_ctrl (s : State) :
    (clearForSoftReset s).ctrl = s.ctrl := rfl

@[simp] theorem clearForSoftReset_status (s : State) :
    (clearForSoftReset s).status = { Status.reset with cmdOp := 6#4 } := rfl

@[simp] theorem clearForSoftReset_regs (s : State) :
    (clearForSoftReset s).regs = Regs.reset := rfl

@[simp] theorem clearForSoftReset_mem (s : State) :
    (clearForSoftReset s).mem = s.mem := rfl

@[simp] theorem clearForSoftReset_eng (s : State) :
    (clearForSoftReset s).eng = Engine.reset := rfl

@[simp] theorem clearForSoftReset_out (s : State) :
    (clearForSoftReset s).out = { s.out with srcEnded := false } := rfl

@[simp] theorem clearForSoftReset_free (s : State) :
    (clearForSoftReset s).free = s.free := rfl

end clearForSoftReset

section pop

@[simp] theorem pop_ctrl (s : State) (r : List Input) :
    (s.pop r).ctrl = s.ctrl := rfl

@[simp] theorem pop_status (s : State) (r : List Input) :
    (s.pop r).status = s.status := rfl

@[simp] theorem pop_regs (s : State) (r : List Input) :
    (s.pop r).regs = s.regs := rfl

@[simp] theorem pop_mem (s : State) (r : List Input) :
    (s.pop r).mem = s.mem := rfl

@[simp] theorem pop_eng (s : State) (r : List Input) :
    (s.pop r).eng = s.eng := rfl

@[simp] theorem pop_out (s : State) (r : List Input) :
    (s.pop r).out = { s.out with inputs := r } := rfl

@[simp] theorem pop_free (s : State) (r : List Input) :
    (s.pop r).free = s.free := rfl

end pop

section hardReset

@[simp] theorem hardReset_ctrl (s : State) :
    (hardReset s).ctrl = Ctrl.reset := rfl

@[simp] theorem hardReset_status (s : State) :
    (hardReset s).status = Status.reset := rfl

@[simp] theorem hardReset_regs (s : State) :
    (hardReset s).regs = Regs.reset := rfl

@[simp] theorem hardReset_mem (s : State) :
    (hardReset s).mem = [] := rfl

@[simp] theorem hardReset_eng (s : State) :
    (hardReset s).eng = Engine.reset := rfl

@[simp] theorem hardReset_out (s : State) :
    (hardReset s).out = { s.out with srcEnded := false } := rfl

@[simp] theorem hardReset_free (s : State) :
    (hardReset s).free = { s.free with epoch := s.free.epoch + 1 } := rfl

end hardReset

end Sys2Proof.Machine
end

