-- ==== Sys2Proof/Laws/BitField.lean ====
section
/-!
SUPPORT. The bounds of the extractor and of the packed register fields.
-/

namespace Sys2Proof.Machine

theorem bitAt_lt (buf : List Byte) (k : Nat) : bitAt buf k < 2 := Bool.toNat_lt _

/-- `ext` fits its width (R111). -/
theorem ext_lt (buf : List Byte) (off n : Nat) : ext buf off n < 2 ^ n := by
  induction n with
  | zero => simp [ext]
  | succ n ih =>
    have := bitAt_lt buf (off + n)
    simp only [ext, Nat.pow_succ]
    omega

/-- A field of `n` bits placed at bit `sh` reaches no bit outside `sh .. sh+n-1`. -/
theorem regField_getLsbD {v sh n : Nat} (hv : v < 2 ^ n) (i : Nat) (h : i < sh ∨ sh + n ≤ i) :
    (regField v sh).getLsbD i = false := by
  simp only [regField, BitVec.getLsbD_shiftLeft, BitVec.getLsbD_ofNat]
  rcases h with h | h
  · simp [h]
  · rw [Nat.testBit_lt_two_pow (lt_of_lt_of_le hv (Nat.pow_le_pow_right (by omega) (by omega)))]
    simp

end Sys2Proof.Machine
end

