-- ==== Sys2Proof/Laws/Memory.lean ====
section
/-!
SUPPORT. The storage behind the buffers: a read after a write, and the canonical form.
-/

namespace Sys2Proof.Machine

@[simp] theorem memLookup_memStore (m : Memory) (a b : Nat) (v : Byte) :
    memLookup (memStore m a v) b = if a = b then some v else memLookup m b := by
  induction m with
  | nil => simp [memStore, memLookup]
  | cons c m ih =>
    obtain ⟨k, w⟩ := c
    simp only [memStore]
    split
    · simp [memLookup]
    · split
      · rename_i hk
        subst hk
        by_cases h : a = b <;> simp [memLookup, h]
      · simp only [memLookup, ih]
        by_cases h : k = b
        · simp_all
        · simp [h]

theorem isSome_memLookup_memStore {m : Memory} {a b : Nat} {v : Byte}
    (h : (memLookup m b).isSome = true) : (memLookup (memStore m a v) b).isSome = true := by
  rw [memLookup_memStore]
  split
  · rfl
  · exact h

/-- Every offset of a store is the written one or one that was listed. -/
theorem mem_memStore {m : Memory} {a : Nat} {v : Byte} {c : Host.Cell} (h : c ∈ memStore m a v) :
    c = (a, v) ∨ c ∈ m := by
  induction m with
  | nil => simpa [memStore] using h
  | cons d m ih =>
    obtain ⟨k, w⟩ := d
    simp only [memStore] at h
    split at h
    · simpa using h
    · split at h
      · rcases List.mem_cons.1 h with h | h
        · exact .inl h
        · exact .inr (List.mem_cons_of_mem _ h)
      · rcases List.mem_cons.1 h with h | h
        · exact .inr (h ▸ List.mem_cons_self)
        · exact (ih h).imp_right (List.mem_cons_of_mem _)

/-- A store at a buffer byte keeps the canonical form. -/
theorem wf_memStore {m : Memory} {a : Nat} {v : Byte} (h : m.wf) (ha : isBufferAddress a = true) :
    (memStore m a v).wf := by
  refine ⟨?_, fun c hc => (mem_memStore hc).elim (fun e => e ▸ ha) (h.2 c)⟩
  obtain ⟨hs, -⟩ := h
  induction m with
  | nil => simp [memStore]
  | cons d m ih =>
    obtain ⟨k, w⟩ := d
    rw [List.pairwise_cons] at hs
    simp only [memStore]
    split
    · rename_i hlt
      refine List.pairwise_cons.2 ⟨fun c hc => ?_, List.pairwise_cons.2 hs⟩
      rcases List.mem_cons.1 hc with rfl | hc
      · exact hlt
      · exact hlt.trans (hs.1 c hc)
    · split
      · subst_vars
        exact List.pairwise_cons.2 hs
      · refine List.pairwise_cons.2 ⟨fun c hc => ?_, ih hs.2⟩
        rcases mem_memStore hc with rfl | hc
        · show k < a
          omega
        · exact hs.1 c hc

theorem isBufferAddress_fbuf {i : Nat} (h : i < Config.fbufSize) :
    isBufferAddress (Config.fbufBase + i) = true := by
  simp only [isBufferAddress, Bool.or_eq_true, Bool.and_eq_true, decide_eq_true_eq]
  omega

theorem isBufferAddress_dbuf {i : Nat} (h : i < Config.dbufSize) :
    isBufferAddress (Config.dbufBase + i) = true := by
  simp only [isBufferAddress, Bool.or_eq_true, Bool.and_eq_true, decide_eq_true_eq]
  omega

theorem isBufferAddress_bufBase (b : Source) {i : Nat} (h : i < 2048) :
    isBufferAddress (bufBase b + i) = true := by
  cases b
  · exact isBufferAddress_dbuf h
  · exact isBufferAddress_fbuf h

/-- A read of a buffer byte after a write to one. -/
theorem byteAt_bufStore (s : State) (b : Source) (i a : Nat) (v : Byte) :
    byteAt (bufStore s b i v) a = if bufBase b + i = a then v else byteAt s a := by
  simp only [byteAt, bufStore_mem, memLookup_memStore, unlistedByte, bufStore_free]
  by_cases h : bufBase b + i = a <;> simp [h]

/-- A byte's value depends on the memory and the reset epoch only. -/
theorem byteAt_congr {s t : State} (hm : t.mem = s.mem) (hf : t.free.epoch = s.free.epoch) (a : Nat) :
    byteAt t a = byteAt s a := by
  simp [byteAt, unlistedByte, hm, hf]

theorem bufSlice_congr {s t : State} (hm : t.mem = s.mem) (hf : t.free.epoch = s.free.epoch)
    (b : Source) (i n : Nat) : bufSlice t b i n = bufSlice s b i n := by
  simp [bufSlice, bufByte, byteAt_congr hm hf]

/-- A buffer write keeps the canonical form. -/
theorem wf_bufStore {s : State} {b : Source} {i : Nat} {v : Byte} (h : s.mem.wf) (hi : i < 2048) :
    (bufStore s b i v).mem.wf := wf_memStore h (isBufferAddress_bufBase b hi)

/-- The memory right after reset has the canonical form. -/
theorem wf_reset : State.reset.mem.wf := by decide

@[simp] theorem length_bufSlice (s : State) (b : Source) (i n : Nat) : (bufSlice s b i n).length = n := by
  simp [bufSlice]

end Sys2Proof.Machine
end

