-- ==== Sys2Proof/Laws/Ops.lean ====
section
/-!
SUPPORT. One lemma per shared operation that says everything it can do.
-/

namespace Sys2Proof.Machine

/-- Everything `complete` does (R181). -/
theorem complete_cases (o : CmdOutcome) (c : ErrCode) (s : State) :
    complete o c s =
      { s with
        eng := { s.eng with fsm := .idle }
        status := { s.status with outcome := o, errCode := c, done := true }
        regs := { s.regs with
          lastErr :=
            if o = .error ∨ o = .streamError then lastErrWord c (decide (o = .streamError)) true
            else s.regs.lastErr } } := by
  cases o <;> rfl

@[simp] theorem complete_ctrl (o : CmdOutcome) (c : ErrCode) (s : State) :
    (complete o c s).ctrl = s.ctrl := by cases o <;> rfl

@[simp] theorem complete_mem (o : CmdOutcome) (c : ErrCode) (s : State) :
    (complete o c s).mem = s.mem := by cases o <;> rfl

@[simp] theorem complete_out (o : CmdOutcome) (c : ErrCode) (s : State) :
    (complete o c s).out = s.out := by cases o <;> rfl

@[simp] theorem complete_free (o : CmdOutcome) (c : ErrCode) (s : State) :
    (complete o c s).free = s.free := by cases o <;> rfl

@[simp] theorem complete_eng (o : CmdOutcome) (c : ErrCode) (s : State) :
    (complete o c s).eng = { s.eng with fsm := .idle } := by cases o <;> rfl

@[simp] theorem complete_status (o : CmdOutcome) (c : ErrCode) (s : State) :
    (complete o c s).status = { s.status with outcome := o, errCode := c, done := true } := by
  cases o <;> rfl

@[simp] theorem complete_regs (o : CmdOutcome) (c : ErrCode) (s : State) :
    (complete o c s).regs =
      { s.regs with
        lastErr :=
          if o = .error ∨ o = .streamError then lastErrWord c (decide (o = .streamError)) true
          else s.regs.lastErr } := by
  cases o <;> rfl

/-- The state `recoverable` leaves a READ_NEXT in when the policy is not RAISE (R185). -/
def backToSeek (code : ErrCode) (s : State) : State :=
  { s with
    eng := { s.eng with need := 0, fsm := .seek }
    regs := { s.regs with
      lastErr :=
        if s.ctrl.policy = .logAndContinue then lastErrWord code false false else s.regs.lastErr
      logCnt := if s.ctrl.policy = .logAndContinue then s.regs.logCnt + 1#32 else s.regs.logCnt } }

/-- Everything `recoverable` does (R185). -/
theorem recoverable_cases (code : ErrCode) (s : State) :
    (s.ctrl.policy = .raise ∧ recoverable code s = complete .error code s)
      ∨ (s.ctrl.policy ≠ .raise ∧ recoverable code s = backToSeek code s) := by
  cases h : s.ctrl.policy <;> simp [recoverable, backToSeek, h, logError]

/-- An LAST_ERR value has its reserved bits 0 (R41). -/
theorem lastErrWord_reserved (c : ErrCode) (f r : Bool) :
    lastErrWord c f r &&& 0xFFFFFFC0#32 = 0#32 := by
  cases c <;> cases f <;> cases r <;> decide

/-- The embedded-auth lengths there are (R94). -/
theorem authLen_values (eaf : Bool) (ai ealc : BitVec 3) :
    authLen eaf ai ealc = 0 ∨ authLen eaf ai ealc = 8 ∨ authLen eaf ai ealc = 12
      ∨ authLen eaf ai ealc = 16 ∨ authLen eaf ai ealc = 32 ∨ authLen eaf ai ealc = 64 := by
  unfold authLen
  split
  · simp
  · split <;> simp

theorem crcBytes_range (c : CrcSel) : 1 ≤ crcBytes c ∧ crcBytes c ≤ 4 := by cases c <;> decide

end Sys2Proof.Machine
end

