-- ==== Sys2Proof/Laws/Step.lean ====
section
/-!
SUPPORT. The step of the machine and of the engine, one lemma per agent and per kind of engine state, and
what the targets of the host bus are.
-/

namespace Sys2Proof.Machine

/-! ## Which agent moves -/

theorem step_of_nil {s : State} (h : s.out.inputs = []) : step s = engineStep s := by simp [step, h]

theorem step_of_tick {s : State} {rest : List Input} (h : s.out.inputs = .tick :: rest) :
    step s = engineStep (s.pop rest) := by simp [step, h]

theorem step_of_read {s : State} {rest : List Input} {off : BitVec 14} {w : Nat}
    (h : s.out.inputs = .read off w :: rest) : step s = .next (busRead off w (s.pop rest)) := by
  simp [step, h]

theorem step_of_write {s : State} {rest : List Input} {off : BitVec 14} {w : Nat} {v : Word}
    (h : s.out.inputs = .write off w v :: rest) : step s = busWrite off w v (s.pop rest) := by
  simp [step, h]

theorem step_of_offer {s : State} {rest : List Input} {e : SrcEvent}
    (h : s.out.inputs = .offer e :: rest) : step s = offerEvent e (s.pop rest) := by simp [step, h]

theorem step_of_rst {s : State} {rest : List Input} (h : s.out.inputs = .rst :: rest) :
    step s = .next (hardReset (s.pop rest)) := by simp [step, h]

/-! ## The engine's states -/

theorem busy_of_idle {s : State} (h : s.eng.fsm = .idle) : busy s = false := by simp [busy, h]

theorem idle_of_not_busy {s : State} (h : ¬ busy s = true) : s.eng.fsm = .idle := by simpa [busy] using h

theorem busy_of_reading {s : State} (h : s.eng.fsm.reading = true) : busy s = true := by
  unfold busy
  cases hf : s.eng.fsm <;> simp_all [Fsm.reading]

theorem reading_of_inFrame {f : Fsm} (h : f.inFrame = true) : f.reading = true := by
  cases f <;> simp_all [Fsm.reading, Fsm.inFrame]

/-- A reading state is SEEK or a state of a frame attempt. -/
theorem seek_or_inFrame {f : Fsm} (h : f.reading = true) : f = .seek ∨ f.inFrame = true := by
  cases f <;> simp_all [Fsm.reading, Fsm.inFrame]

theorem engineStep_of_idle {s : State} (h : s.eng.fsm = .idle) : engineStep s = .next s := by
  simp [engineStep, h]

theorem engineStep_of_reading {s : State} (h : s.eng.fsm.reading = true) : engineStep s = readStep s := by
  cases hf : s.eng.fsm <;> simp_all [Fsm.reading, engineStep]

/-- An engine step in a reading state with an event offered takes it (R64). -/
theorem engineStep_of_offered {s : State} {e : SrcEvent} {rest : List SrcEvent}
    (h : s.eng.fsm.reading = true) (hs : s.out.src = e :: rest) :
    engineStep s = takeEvent e { s with out := { s.out with src := rest } } := by
  rw [engineStep_of_reading h, readStep, hs]

/-- An engine step in a reading state with nothing offered waits (R66). -/
theorem engineStep_of_empty {s : State} (h : s.eng.fsm.reading = true) (hs : s.out.src = []) :
    engineStep s = .next s := by
  rw [engineStep_of_reading h, readStep, hs]

/-! ## Commands in EXEC -/

/-- An EXEC command started while idle captures its operands (R70, R180). -/
theorem startExec_of_idle {k : ExecKind} {op : BitVec 4} {b : Source} {c : CrcSel} {s : State}
    (h : s.eng.fsm = .idle) : startExec k op b c s = enterExec k b c (beginCommand op s) := by
  simp [startExec, busy, h]

/-- A command in EXEC completes one engine step after its latency (R248, R249). -/
theorem engineRun_of_exec {o : Op} : ∀ {n : Nat} {s : State}, s.eng.fsm = .exec → s.eng.op = some o →
    s.free.work = n →
      engineRun (n + 1) s = .next (finishExec o { s with free := { s.free with work := 0 } })
  | 0, s, h1, h2, h3 => by
    have : s = { s with free := { s.free with work := 0 } } := by rw [← h3]
    simp only [engineRun, engineStep, h1, execStep, h2, h3]
    rw [← this]
  | n + 1, s, h1, h2, h3 => by
    rw [engineRun]
    simp only [engineStep, h1, execStep, h2, h3]
    exact engineRun_of_exec (s := { s with free := { s.free with work := n } }) h1 h2 rfl

/-! ## The bus -/

/-- A four-byte access at a register's offset reaches that register (R21, R61). -/
theorem accessTarget_reg {off : BitVec 14} {r : Reg} (h : off.toNat = regOffset r) :
    accessTarget off 4 = some (.reg r) := by
  obtain rfl : off = BitVec.ofNat 14 (regOffset r) := by
    apply BitVec.eq_of_toNat_eq
    rw [h]
    cases r <;> rfl
  cases r <;> decide

/-- An index in a window is the offset's distance from the window's base (R60). -/
theorem windowAt_eq {off i : Nat} {b : Source} (h : windowAt off = some (b, i)) :
    i < 2048 ∧ off = bufBase b + i := by
  unfold windowAt at h
  simp only [Config.fbufBase, Config.fbufSize, Config.dbufBase, Config.dbufSize] at h
  split at h
  · simp only [Option.some.injEq, Prod.mk.injEq] at h
    obtain ⟨rfl, rfl⟩ := h
    simp only [bufBase, Config.fbufBase]
    omega
  · split at h
    · simp only [Option.some.injEq, Prod.mk.injEq] at h
      obtain ⟨rfl, rfl⟩ := h
      simp only [bufBase, Config.dbufBase]
      omega
    · cases h

/-- A word write to a window keeps the canonical form. -/
theorem wf_storeWord {s : State} {b : Source} {i : Nat} {v : Word} (h : s.mem.wf) (hi : i + 3 < 2048) :
    (storeWord s b i v).mem.wf :=
  wf_bufStore (wf_bufStore (wf_bufStore (wf_bufStore h (by omega)) (by omega)) (by omega)) hi

/-- A write to DBUF does not reach FBUF (R60). -/
theorem memLookup_fbuf_store_dbuf (m : Memory) (i j : Nat) (v : Byte) (hj : j < 2048) :
    memLookup (memStore m (Config.dbufBase + i) v) (Config.fbufBase + j)
      = memLookup m (Config.fbufBase + j) := by
  rw [memLookup_memStore, if_neg (by simp only [Config.fbufBase, Config.dbufBase]; omega)]

end Sys2Proof.Machine
end

