-- ==== Sys2Proof/Laws/Invariant.lean ====
section
/-!
SUPPORT. The parts of `Inv`, and what the shared operations make of them: the part that holds in every
state, the part of a running READ_NEXT, and the part of a frame attempt; and the reserved bits of the packed
registers.
-/

namespace Sys2Proof.Machine

/-- What `Inv` says in every state of the engine. -/
structure Base (s : State) : Prop where
  wf : s.mem.wf
  rng : RangesOk s
  res : ReservedZero s.regs
  crc : s.status.crcOk = true → s.status.crcChecked = true
  fv : s.status.frameValid = true → 9 ≤ s.regs.frameLen.toNat
  written : ∀ i < s.regs.frameLen.toNat, (memLookup s.mem (Config.fbufBase + i)).isSome = true
  pre : 1 ≤ s.regs.frameLen.toNat → memLookup s.mem Config.fbufBase = some Config.preamble

/-- What `Inv` says while a READ_NEXT runs. -/
structure Running (s : State) : Prop where
  eos : s.eng.eos = false
  fv : s.status.frameValid = false
  op : s.status.cmdOp = 1#4
  done : s.status.done = false
  outcome : s.status.outcome = .none
  code : s.status.errCode = .none

/-- What `Inv` says of a frame attempt's bytes. -/
structure InFrame (s : State) : Prop where
  pos : 1 ≤ s.eng.pos
  written : ∀ i < s.eng.pos, (memLookup s.mem (Config.fbufBase + i)).isSome = true
  pre : memLookup s.mem Config.fbufBase = some Config.preamble

theorem Inv.base {s : State} (h : Inv s) : Base s := by
  obtain ⟨h1, -, h3, h4, ⟨-, -, h7, -, -, h8⟩, h9, -, h11⟩ := h
  exact ⟨h1, h3, h4, h7, h8, h9, fun h => h11 (.inl h)⟩

theorem Inv.running {s : State} (h : Inv s) (hr : s.eng.fsm.reading = true) : Running s := by
  obtain ⟨-, -, -, -, ⟨a, -, -, b, -, -⟩, -⟩ := h
  obtain ⟨a1, a2, a3⟩ := a (busy_of_reading hr)
  obtain ⟨b1, b2, b3⟩ := b hr
  exact ⟨b1, b2, b3, a1, a2, a3⟩

theorem Inv.inFrame {s : State} (h : Inv s) (hr : s.eng.fsm.inFrame = true) : InFrame s := by
  obtain ⟨-, -, -, -, -, -, b, c⟩ := h
  exact ⟨(b hr).1, (b hr).2, c (.inr hr)⟩

/-- A completion gives `Inv`, whatever state the engine was in. -/
theorem Base.complete {s : State} (h : Base s) {o : CmdOutcome} {c : ErrCode}
    (hc : (o = .streamError ∨ o = .error) ↔ c ≠ .none) : Inv (complete o c s) := by
  obtain ⟨h1, h2, ⟨r1, r2, r3, r4⟩, h4, h5, h6, h7⟩ := h
  refine ⟨by simpa using h1, by simp [ChunkOk], by simpa [RangesOk] using h2,
    ⟨by simpa using r1, by simpa using r2, by simpa using r3, ?_⟩, ?_, ?_⟩
  · simp only [complete_regs]
    split
    · exact lastErrWord_reserved ..
    · exact r4
  · exact ⟨by simp [busy], by simpa using hc, by simpa using h4, by simp [Fsm.reading], by simp,
      by simpa using h5⟩
  · exact ⟨by simpa using h6, by simp [Fsm.inFrame], by simpa [Fsm.inFrame] using h7⟩

/-- Falling back to SEEK inside a READ_NEXT gives `Inv`. -/
theorem Base.backToSeek {s : State} (h : Base s) (r : Running s) (c : ErrCode) : Inv (backToSeek c s) := by
  obtain ⟨h1, h2, ⟨r1, r2, r3, r4⟩, h4, h5, h6, h7⟩ := h
  obtain ⟨e1, e2, e3, e4, e5, e6⟩ := r
  refine ⟨h1, by simp [ChunkOk, Machine.backToSeek], ⟨by simp [Machine.backToSeek], h2.2⟩,
    ⟨r1, r2, r3, ?_⟩, ?_, h6, by simp [Machine.backToSeek, Fsm.inFrame],
    by simpa [Machine.backToSeek, Fsm.inFrame] using h7⟩
  · simp only [Machine.backToSeek]
    split
    · exact lastErrWord_reserved ..
    · exact r4
  · exact ⟨fun _ => ⟨e4, e5, e6⟩, by simp [Machine.backToSeek, e5, e6], h4, fun _ => ⟨e1, e2, e3⟩,
      by simp [Machine.backToSeek], h5⟩

/-- A recoverable error gives `Inv` under every policy. -/
theorem Base.recoverable {s : State} (h : Base s) (r : Running s) {c : ErrCode} (hc : c ≠ .none) :
    Inv (recoverable c s) := by
  rcases recoverable_cases c s with ⟨-, e⟩ | ⟨-, e⟩ <;> rw [e]
  · exact h.complete (by simp [hc])
  · exact h.backToSeek r c

/-- A state of a running READ_NEXT has `Inv` from its parts. -/
theorem Base.inv_of_running {s : State} (h : Base s) (r : Running s) (hr : s.eng.fsm.reading = true)
    (hf : s.eng.fsm.inFrame = true → InFrame s) (hc : ChunkOk s.eng) : Inv s := by
  obtain ⟨h1, h2, h3, h4, h5, h6, h7⟩ := h
  obtain ⟨e1, e2, e3, e4, e5, e6⟩ := r
  exact ⟨h1, hc, h2, h3,
    ⟨fun _ => ⟨e4, e5, e6⟩, by simp [e5, e6], h4, fun _ => ⟨e1, e2, e3⟩,
      fun h => by rw [h] at hr; simp [Fsm.reading] at hr, h5⟩,
    h6, fun h => ⟨(hf h).pos, (hf h).written⟩, fun h => h.elim h7 fun h => (hf h).pre⟩

/-! ## Reserved bits of the packed registers -/

theorem and_eq_zero_of_bits {x m : Word} (h : ∀ i < 32, m.getLsbD i = true → x.getLsbD i = false) :
    x &&& m = 0#32 := by
  apply BitVec.eq_of_getLsbD_eq
  intro i hi
  simp only [BitVec.getLsbD_and, BitVec.getLsbD_zero]
  have := h i hi
  cases hm : m.getLsbD i <;> simp_all

/-- HDR_FS from fields of their widths keeps its reserved bits 0 (R32). -/
theorem hdrFs_reserved {a b c d e : Nat} (ha : a < 2 ^ 7) (hb : b < 2 ^ 1) (hc : c < 2 ^ 10)
    (hd : d < 2 ^ 2) (he : e < 2 ^ 4) :
    (regField a 0 ||| regField b 7 ||| regField c 8 ||| regField d 20 ||| regField e 24) &&& 0xF0CC0000#32
      = 0#32 := by
  apply and_eq_zero_of_bits
  intro i hi hm
  have : i = 18 ∨ i = 19 ∨ i = 22 ∨ i = 23 ∨ 28 ≤ i := by
    revert hm
    revert i
    decide
  simp only [BitVec.getLsbD_or]
  rw [regField_getLsbD ha, regField_getLsbD hb, regField_getLsbD hc, regField_getLsbD hd,
    regField_getLsbD he] <;> first | rfl | omega

/-- HDR_PD likewise (R33). -/
theorem hdrPd_reserved {a b c d : Nat} (ha : a < 2 ^ 4) (hb : b < 2 ^ 1) (hc : c < 2 ^ 7)
    (hd : d < 2 ^ 4) :
    (regField a 0 ||| regField b 4 ||| regField c 8 ||| regField d 16) &&& 0xFFF080E0#32 = 0#32 := by
  apply and_eq_zero_of_bits
  intro i hi hm
  have : i = 5 ∨ i = 6 ∨ i = 7 ∨ i = 15 ∨ 20 ≤ i := by
    revert hm
    revert i
    decide
  simp only [BitVec.getLsbD_or]
  rw [regField_getLsbD ha, regField_getLsbD hb, regField_getLsbD hc, regField_getLsbD hd] <;>
    first | rfl | omega

/-- HDR_EA likewise (R35). -/
theorem hdrEa_reserved {a b c d : Nat} (ha : a < 2 ^ 4) (hb : b < 2 ^ 6) (hc : c < 2 ^ 3)
    (hd : d < 2 ^ 3) :
    (regField a 0 ||| regField b 4 ||| regField c 10 ||| regField d 13 ||| regField 1 16) &&& 0xFFFE0000#32
      = 0#32 := by
  apply and_eq_zero_of_bits
  intro i hi hm
  have : 17 ≤ i := by
    revert hm
    revert i
    decide
  simp only [BitVec.getLsbD_or]
  rw [regField_getLsbD ha, regField_getLsbD hb, regField_getLsbD hc, regField_getLsbD hd,
    regField_getLsbD (n := 1) (by decide)] <;> first | rfl | omega

end Sys2Proof.Machine
end

