-- ==== Sys2Proof/Laws/PerInstr.lean ====
section
/-!
SUPPORT. The per-instruction family `WordFields`: the command word of an instruction is legal (R83) and
carries the instruction's opcode, SRC and CRCW in the bits of R81.
-/

namespace Sys2Proof.Laws.WordFields

/-- The word of `i` is legal and its fields are `i`'s. -/
def Statement (i : Instr) : Prop :=
  CommandWord.ok (encode i) = true ∧ opField (encode i) = opcode i
    ∧ srcField (encode i) = instrSrc i ∧ crcwField (encode i) = instrCrcw i

theorem nop (src : Source) (crcw : CrcSel) : Statement (.nop src crcw) := by
  cases src <;> cases crcw <;> unfold Statement <;> decide

theorem readNext (src : Source) (crcw : CrcSel) : Statement (.readNext src crcw) := by
  cases src <;> cases crcw <;> unfold Statement <;> decide

theorem extract (src : Source) (crcw : CrcSel) : Statement (.extract src crcw) := by
  cases src <;> cases crcw <;> unfold Statement <;> decide

theorem crcCompute (src : Source) (crcw : CrcSel) : Statement (.crcCompute src crcw) := by
  cases src <;> cases crcw <;> unfold Statement <;> decide

theorem crcValidate (src : Source) (crcw : CrcSel) : Statement (.crcValidate src crcw) := by
  cases src <;> cases crcw <;> unfold Statement <;> decide

theorem abort (src : Source) (crcw : CrcSel) : Statement (.abort src crcw) := by
  cases src <;> cases crcw <;> unfold Statement <;> decide

theorem softReset (src : Source) (crcw : CrcSel) : Statement (.softReset src crcw) := by
  cases src <;> cases crcw <;> unfold Statement <;> decide

end Sys2Proof.Laws.WordFields
end

