-- ==== Sys2Proof/Tests/Slice0.lean ====
section
/-!
SUPPORT. Tests of the model, each about one step or one function, with its expected value from the spec
(named in its docstring) or counted by hand from a rule; then, for each obligation with hypotheses, a
witness that meets them.
-/

namespace Sys2Proof.Tests

open Sys2Proof Sys2Proof.Machine

/-! ## Helpers -/

/-- Does the step go on, to a state with the property? -/
def goesTo (o : Host.Outcome State Fault Refusal) (p : State → Bool) : Bool :=
  match o with
  | .next t => p t
  | .fault _ | .refused _ => false

/-- Does the step stop with this refusal? -/
def refusedWith (o : Host.Outcome State Fault Refusal) (r : Refusal) : Bool :=
  match o with
  | .refused q => decide (q = r)
  | .next _ | .fault _ => false

/-- `s` with these inputs next. -/
def inputsTo (i : List Input) (s : State) : State := { s with out := { s.out with inputs := i } }

/-- The reset state with one input next. -/
def fresh (i : Input) : State := inputsTo [i] State.reset

/-- The reset state with the engine in state `f`. -/
def inFsm (f : Fsm) : State := { State.reset with eng := { Engine.reset with fsm := f } }

/-- `s` with these source events offered. -/
def offering (e : List SrcEvent) (s : State) : State := { s with out := { s.out with src := e } }

/-- `s` with FBUF[0..] holding these bytes. -/
def withFbuf (l : List Byte) (s : State) : State :=
  { s with mem := l.zipIdx.map (fun p => (Config.fbufBase + p.2, p.1)) }

/-- `s` with DBUF[0..] holding these bytes and DBUF_LEN their number. -/
def withDbuf (l : List Byte) (s : State) : State :=
  { s with
    mem := l.zipIdx.map (fun p => (Config.dbufBase + p.2, p.1))
    regs := { s.regs with dbufLen := BitVec.ofNat 32 l.length } }

/-- `s` in EXEC with a captured command and no latency left. -/
def executing (k : ExecKind) (b : Source) (a0 a1 ex : Word) (s : State) : State :=
  { s with
    eng := { s.eng with
      fsm := .exec
      op := some { kind := k, src := b, crcw := .crc8, arg0 := a0, arg1 := a1, expected := ex
                   dbufLen := s.regs.dbufLen } } }

/-- `s` with the policy set. -/
def withPolicy (p : Policy) (s : State) : State := { s with ctrl := { s.ctrl with policy := p } }

/-! ## Well-formedness and decoding -/

/-- R83: opcode 7 is reserved. -/
theorem test_ok_refuses_reserved_opcode : CommandWord.ok 0x00000007#32 = false := by decide

/-- R83: bit 5 must be 0. -/
theorem test_ok_refuses_bit5 : CommandWord.ok 0x00000021#32 = false := by decide

/-- R83: bits [31:8] must be 0. -/
theorem test_ok_refuses_high_bits : CommandWord.ok 0x00000106#32 = false := by decide

/-- R82: the seven opcodes are legal, with any SRC and CRCW. -/
theorem test_ok_accepts_legal_words : CommandWord.ok 0x000000D6#32 = true := by decide

/-- A small frame: no extension, 16-bit time tag, CRC-8. -/
def smallFrame : Frame :=
  { messageType := 1#7, crcType := .crc8, frameCrc := 0#4, messageSubtype := 2#4,
    timeTag := .short 0x1234#16, solutionId := 5#7, solutionProcId := 3#4, ext := none,
    payload := [0xAA#8, 0xBB#8], auth := [] }

theorem test_frame_wf : smallFrame.wf = true := by decide

/-- R90: payload_length is 10 bits. -/
theorem test_frame_wf_refuses_payload_1024 :
    ({ smallFrame with payload := List.replicate 1024 0#8 } : Frame).wf = false := by
  have h : (List.replicate 1024 0#8).length = 1024 := List.length_replicate
  simp only [Frame.wf, h]
  decide

/-- R94: without an extension there is no embedded authentication. -/
theorem test_frame_wf_refuses_auth_without_extension :
    ({ smallFrame with auth := [0#8] } : Frame).wf = false := by decide

/-- R94: AI = 2 and EALC = 0 need 8 auth bytes. -/
theorem test_frame_wf_refuses_short_auth :
    ({ smallFrame with ext := some ⟨0#4, 0#6, 2#3, 0#3⟩, auth := List.replicate 7 0#8 } : Frame).wf
      = false := by decide

/-- R94: EALC = 5 is unmapped once AI > 1. -/
theorem test_frame_authMapped_refuses_code_5 :
    ({ smallFrame with ext := some ⟨0#4, 0#6, 2#3, 5#3⟩ } : Frame).authMapped = false := by decide

/-- A command word from its fields (R81): bits [31:8], CRCW, bit 5, SRC and OP, most significant first. -/
def wordOfFields (high : BitVec 24) (crcw : BitVec 2) (bit5 src : BitVec 1) (op : BitVec 4) : Word :=
  high ++ crcw ++ bit5 ++ src ++ op

theorem test_decode_nop : decode 0b00000000000000000000000001010000#32 = .ok (.nop .fbuf .crc16) := by
  decide

theorem test_decode_readNext : decode (wordOfFields 0 0 0 0 0b0001#4) = .ok (.readNext .dbuf .crc8) := by
  decide

theorem test_decode_extract : decode (wordOfFields 0 0 0 1 0b0010#4) = .ok (.extract .fbuf .crc8) := by
  decide

/-- The word 0xC3 of R126's worked example. -/
theorem test_decode_crcCompute :
    decode (wordOfFields 0 0b11#2 0 0 0b0011#4) = .ok (.crcCompute .dbuf .crc32) := by decide

theorem test_decode_crcValidate :
    decode (wordOfFields 0 0b10#2 0 1 0b0100#4) = .ok (.crcValidate .fbuf .crc24) := by decide

theorem test_decode_abort : decode (wordOfFields 0 0 0 0 0b0101#4) = .ok (.abort .dbuf .crc8) := by decide

theorem test_decode_softReset :
    decode (wordOfFields 0 0 0 0 0b0110#4) = .ok (.softReset .dbuf .crc8) := by decide

/-- Three words R83 calls illegal, each name once; that bits [31:8] are named first is the model's choice
(assumption 21). -/
theorem test_decode_rejects_by_name :
    decode (wordOfFields 0 0 0 0 0b0111#4) = .error .reservedOpcode
      ∧ decode (wordOfFields 0 0 1 0 0b0110#4) = .error .reservedBit5
      ∧ decode (wordOfFields 1 0 1 0 0b1111#4) = .error .reservedHighBits := by decide

/-- R82: no two rows of the opcode map overlap. -/
theorem test_opcode_rows_disjoint :
    opcodeRows.Pairwise (fun p q => p.pattern &&& q.mask ≠ q.pattern &&& p.mask) := by decide

theorem test_decodeTableWord :
    decodeTableWord 32 0x94 = some (.crcValidate .fbuf .crc24) ∧ decodeTableWord 32 7 = none := by decide

/-! ## Functions -/

/-- `FF 00 FF 00 FF 00 FF 00`, the buffer of R113's worked example. -/
def stripes : List Byte := [0xFF#8, 0#8, 0xFF#8, 0#8, 0xFF#8, 0#8, 0xFF#8, 0#8]

/-- spec/90_conflicts.md C1: bits 4..11 are 0xF0; and the first eight bits are 0xFF. -/
theorem test_ext_crosses_bytes : ext stripes 4 8 = 0xF0 ∧ ext stripes 0 8 = 0xFF := by decide

/-- The CRC of the one byte FF (spec/95_test_vectors.md) under each parameter set of R122's candidate profile,
by the algorithm of R121. -/
theorem test_crc8_of_ff : crc (w := 8) ⟨0x07#8, 0#8, false, false, 0#8⟩ [0xFF#8] = 0xF3#8 := by decide

theorem test_crc16_of_ff :
    crc (w := 16) ⟨0x1021#16, 0#16, false, false, 0#16⟩ [0xFF#8] = 0x1EF0#16 := by decide

theorem test_crc24_of_ff :
    crc (w := 24) ⟨0x864CFB#24, 0#24, false, false, 0#24⟩ [0xFF#8] = 0xDD8538#24 := by decide

/-- The CRC-32 set of R122's candidate profile. -/
def crc32Set : CrcParams 32 := ⟨0x04C11DB7#32, 0xFFFFFFFF#32, true, true, 0xFFFFFFFF#32⟩

/-- 0xFF000000 of the same table, before the final XOR and the final reflection. -/
theorem test_crc32_register_after_ff : crcByte crc32Set 0xFFFFFFFF#32 0xFF#8 = 0xFFFFFF00#32 := by decide

/-- R121: bit i moves to bit w-1-i. -/
theorem test_reflect : reflectBits 0b11010000#8 = 0b00001011#8 := by decide

/-- "123456789". -/
def digits : List Byte := [0x31#8, 0x32#8, 0x33#8, 0x34#8, 0x35#8, 0x36#8, 0x37#8, 0x38#8, 0x39#8]

/-- R112: `off + n = 8L` passes, one more fails, and a huge offset does not wrap. -/
theorem test_rangeOkExt_edges :
    rangeOkExt .dbuf 8 60 4 = true ∧ rangeOkExt .dbuf 8 60 5 = false
      ∧ rangeOkExt .dbuf 8 0xFFFFFFFF 1 = false ∧ rangeOkExt .dbuf 2049 0 8 = false := by decide

/-- R125: `start = L` with `count = 0` passes, `start = L + 1` fails. -/
theorem test_rangeOkCrc_edges :
    rangeOkCrc .dbuf 9 9 0 = true ∧ rangeOkCrc .dbuf 9 10 0 = false := by decide

/-- The vector V-F1 (spec/95_test_vectors.md) up to its trailer is the small frame's encoding. -/
theorem test_wire_small_frame :
    coreBytes smallFrame = [0x02#8, 0x01#8, 0x00#8, 0x20#8, 0x91#8, 0xA0#8, 0x53#8, 0xAA#8, 0xBB#8] := by
  decide

/-- R68: the word 0x00FF00FF written at DBUF offset 0 makes DBUF[0..4) = FF 00 FF 00. -/
theorem test_word_write_lanes :
    goesTo (step (fresh (.write 0x2000#14 4 0x00FF00FF#32)))
      (fun t => bufSlice t .dbuf 0 4 = [0xFF#8, 0#8, 0xFF#8, 0#8]) = true := by decide

/-! ## One step of each command -/

/-- The word the host gives to `withFetchWord` is the very next thing that runs. -/
theorem test_withFetchWord_runs_it :
    goesTo (step (State.reset.withFetchWord 32 0x06)) (fun t => regValue t .status = 0x00060006#32)
      = true := by decide

/-- R182 and R24: DONE, OUTCOME = OK, CMD_OP = 0. -/
theorem test_nop :
    goesTo (step (fresh (wrReg .cmd 0#32))) (fun t => regValue t .status = 0x00000006#32) = true := by
  decide

/-- R183 and R24: BUSY with CMD_OP = 1, in SEEK. -/
theorem test_readNext_starts :
    goesTo (step (fresh (wrReg .cmd 1#32)))
      (fun t => regValue t .status = 0x00010001#32 && decide (t.eng.fsm = .seek)) = true := by decide

/-- R183: with `eos` set it ends at once with END_OF_STREAM. -/
theorem test_readNext_after_eos :
    goesTo (exec (.readNext .dbuf .crc8) { State.reset with eng := { Engine.reset with eos := true } })
      (fun t => regValue t .status = 0x0001008A#32) = true := by decide

/-- R113's worked example: ARG0 = 4, ARG1 = 8 over the stripes give 0xF0. -/
theorem test_extract_completes :
    goesTo (engineStep (executing .extract .dbuf 4#32 8#32 0#32 (withDbuf stripes State.reset)))
      (fun t => t.regs.resLo = 0xF0#32 && t.regs.resHi = 0#32 && t.status.outcome = .ok) = true := by decide

/-- R113: `n = 65` fails with OUT_OF_RANGE, RES cleared, LAST_ERR = 4 with RAISED. -/
theorem test_extract_out_of_range :
    goesTo (engineStep (executing .extract .dbuf 0#32 65#32 0#32 (withDbuf stripes State.reset)))
      (fun t => t.status.errCode = .outOfRange && t.regs.lastErr = 0x24#32) = true := by decide

/-- R126 and R180: the command starts, with its operands captured. -/
theorem test_crcCompute_starts :
    goesTo (exec (.crcCompute .dbuf .crc32) (withDbuf digits State.reset))
      (fun t => t.eng.fsm = .exec && (t.eng.op.map (·.dbufLen)) = some 9#32) = true := by decide

/-- R126: with FRAME_LEN = 0, one byte of FBUF is out of range. -/
theorem test_crcCompute_out_of_range :
    goesTo (engineStep (executing .crcCompute .fbuf 0#32 1#32 0#32 State.reset))
      (fun t => regValue t .status = 0x00000412#32) = true := by decide

/-- R127: a range beyond L is out of range, and both result registers are cleared. -/
theorem test_crcValidate_out_of_range :
    goesTo (engineStep (executing .crcValidate .dbuf 9#32 1#32 0#32
        { withDbuf digits State.reset with regs := { Regs.reset with resLo := 5#32, dbufLen := 9#32 } }))
      (fun t => t.regs.resLo = 0#32 && t.status.errCode = .outOfRange) = true := by decide

/-- R127: CRC_VALIDATE is busy after its CMD write, with CMD_OP = 4. -/
theorem test_crcValidate_starts :
    goesTo (step (fresh (wrReg .cmd 0xC4#32))) (fun t => regValue t .status = 0x00040001#32) = true := by
  decide

/-- R186: idle, EOS_LATCHED and OK. -/
theorem test_abort_idle :
    goesTo (step (fresh (wrReg .cmd 5#32))) (fun t => regValue t .status = 0x00050086#32) = true := by decide

/-- R186's example: a READ_NEXT in PAYLOAD ends with STREAM_ERROR and EOF. -/
theorem test_abort_in_payload :
    goesTo (exec (.abort .dbuf .crc8) (inFsm .payload))
      (fun t => t.status.outcome = .streamError && t.status.errCode = .eof && t.eng.eos) = true := by decide

/-- R187: it is accepted while busy, and keeps CTRL. -/
theorem test_softReset_while_busy :
    goesTo (exec (.softReset .dbuf .crc8) (withPolicy .raise (inFsm .auth)))
      (fun t => regValue t .status = 0x00060006#32 && regValue t .ctrl = 0x00000005#32) = true := by decide

/-- R180's example: the word 9 while idle. -/
theorem test_illegal_word :
    goesTo (step (fresh (wrReg .cmd 9#32))) (fun t => regValue t .status = 0x00090712#32) = true := by decide

/-! ## One step of the frame state machine and of the bus -/

/-- R143's example: the bytes 02 01 00 give HDR_FS = 0x00000201. -/
theorem test_fs_third_byte :
    goesTo (engineStep (offering [.byte 0x00#8]
        { withFbuf [0x73#8, 0x02#8, 0x01#8] (inFsm .fs) with
          eng := { Engine.reset with fsm := .fs, need := 1, pos := 3 } }))
      (fun t => t.regs.hdrFs = 0x00000201#32 && t.eng.fsm = .pd && t.eng.need = 4
        && t.eng.fPl = 2#10) = true := by decide

/-- R99: the bytes 20 91 A0 53 give subtype 2, tag 0x1234, solution 5 and 3. -/
theorem test_pd_fourth_byte :
    goesTo (engineStep (offering [.byte 0x53#8]
        { withFbuf [0x73#8, 0x02#8, 0x01#8, 0x00#8, 0x20#8, 0x91#8, 0xA0#8] (inFsm .pd) with
          eng := { Engine.reset with fsm := .pd, need := 1, pos := 7, fPl := 2#10 } }))
      (fun t => t.regs.hdrPd = 0x00030502#32 && t.regs.hdrTt = 0x1234#32
        && t.regs.payloadOff = 8#32 && t.eng.fsm = .payload) = true := by decide

/-- R142's example: the first byte after the preamble. -/
theorem test_fs_first_byte :
    goesTo (engineStep (offering [.byte 0x02#8]
        { inFsm .fs with eng := { Engine.reset with fsm := .fs, need := 3, pos := 1 } }))
      (fun t => bufByte t .fbuf 1 = 0x02#8 && t.eng.pos = 2 && t.eng.need = 2) = true := by decide

/-- R149 with CRC_EN = 0 (R39): the trailer is recorded and the frame is delivered unchecked. -/
theorem test_trailer_unchecked :
    goesTo (engineStep (offering [.byte 0xC8#8]
        { inFsm .crc with
          ctrl := { Ctrl.reset with crcEn := false }
          eng := { Engine.reset with fsm := .crc, need := 1, pos := 8 } }))
      (fun t => t.regs.crcRx = 0xC8#32 && t.regs.frameLen = 9#32 && t.status.frameValid
        && !t.status.crcChecked && t.regs.frameCnt = 1#32) = true := by decide

/-- R141 under RAISE with UPE = 1: the byte is counted and the READ_NEXT ends with UNKNOWN_PROTOCOL. -/
theorem test_seek_upe_raise :
    goesTo (engineStep (offering [.byte 0x00#8]
        { inFsm .seek with ctrl := { Ctrl.reset with upe := true, policy := .raise } }))
      (fun t => t.status.errCode = .unknownProtocol && t.regs.discardCnt = 1#32
        && t.regs.lastErr = 0x23#32) = true := by decide

/-- R153: an Eos in SEEK is clean. -/
theorem test_seek_eos :
    goesTo (engineStep (offering [.eos] (inFsm .seek))) (fun t => t.status.outcome = .endOfStream) = true := by
  decide

/-- R63: a misaligned register read returns 0 and sets ACCERR, bit 13. -/
theorem test_misaligned_read :
    goesTo (step (fresh (.read 0x002#14 4)))
      (fun t => t.out.hostRead = some 0#32 && regValue t .status = 0x00002000#32) = true := by decide

/-- R63: a two-byte window access, and the hole at 0x1800, are not admitted. -/
theorem test_not_admitted :
    accessTarget 0x1000#14 2 = none ∧ accessTarget 0x1800#14 1 = none ∧ accessTarget 0x068#14 4 = none := by
  decide

/-- R62: the last byte of each window. -/
theorem test_window_edges :
    accessTarget 0x17FF#14 1 = some (.byte .fbuf 2047) ∧ accessTarget 0x27FC#14 4 = some (.word .dbuf 2044) := by
  decide

/-- R22: all-ones to CTRL leaves POLICY at 1 and sets the other fields. -/
theorem test_ctrl_policy_3 :
    goesTo (step (fresh (wrReg .ctrl 0xFFFFFFFF#32))) (fun t => regValue t .ctrl = 0x0000003B#32) = true := by
  decide

/-! ## Witnesses: for each obligation with hypotheses, inputs that meet them -/

/-- A READ_NEXT just after its preamble, with one byte and then the end of the stream offered. -/
def inFrameState : State :=
  { State.reset with
    status := { Status.reset with cmdOp := 1#4 }
    mem := [(0x1000, 0x73#8)]
    eng := { Engine.reset with fsm := .fs, need := 3, pos := 1 }
    out := { State.reset.out with src := [.byte 0x02#8, .eos] } }

/-- A READ_NEXT in SEEK under RAISE with UPE = 1. -/
def seekState : State :=
  { State.reset with
    ctrl := { Ctrl.reset with upe := true, policy := .raise }
    status := { Status.reset with cmdOp := 1#4 }
    eng := { Engine.reset with fsm := .seek }
    out := { State.reset.out with src := [.byte 0x00#8, .eos] } }

/-- A READ_NEXT with CRC_EN = 0 one byte before the end of the smallest frame. -/
def atTrailer : State :=
  { withFbuf [0x73#8, 0#8, 0#8, 0#8, 0#8, 0#8, 0#8, 0#8] State.reset with
    ctrl := { Ctrl.reset with crcEn := false }
    status := { Status.reset with cmdOp := 1#4 }
    eng := { Engine.reset with fsm := .crc, need := 1, pos := 8 }
    out := { State.reset.out with src := [.byte 0#8, .eos] } }

/-- A command in EXEC with one engine step of latency left. -/
def execState : State :=
  { executing .crcCompute .fbuf 0#32 1#32 0#32 State.reset with free := { work := 1, draws := 1, epoch := 0 } }

theorem inv_inFrameState : Inv inFrameState := by
  refine ⟨by decide, ?_, by decide, by decide, by decide, by decide⟩
  show 1 ≤ 3 ∧ 3 ≤ 3 ∧ 1 + 3 = 4
  decide

theorem inv_seekState : Inv seekState := ⟨by decide, trivial, by decide, by decide, by decide, by decide⟩

theorem inv_atTrailer : Inv atTrailer := by
  refine ⟨by decide, ?_, by decide, by decide, by decide, by decide⟩
  show 1 ≤ 1 ∧ 1 ≤ crcBytes .crc8 ∧ 0 = authLen false 0#3 0#3
    ∧ 8 + 1 = 8 + 2 * 0 + 2 * 0 + 0 + authLen false 0#3 0#3 + crcBytes .crc8
  decide

theorem witness_DecodeAcceptsExactlyLegalWords :
    decode 0x000000D4#32 = .ok (.crcValidate .fbuf .crc32) := by decide

theorem witness_EncodeDecodeInverse : decode 0x000000D6#32 = .ok (.softReset .fbuf .crc32) := by decide

theorem witness_StepRunsDecodedCommand :
    (fresh (wrReg .cmd 2#32)).out.inputs = .write 0x004#14 4 2#32 :: []
      ∧ decode 2#32 = .ok (.extract .dbuf .crc8) := by decide

theorem witness_IllegalWordReported :
    ¬ ((0x106#32).toNat / 2 ^ 8 = 0 ∧ (0x106#32).toNat / 2 ^ 5 % 2 = 0 ∧ (0x106#32).toNat % 2 ^ 4 ≤ 6)
      ∧ (fresh (wrReg .cmd 0x106#32)).out.inputs = .write 0x004#14 4 0x106#32 :: []
      ∧ (fresh (wrReg .cmd 0x106#32)).eng.fsm = .idle
      ∧ (inputsTo [wrReg .cmd 0x106#32] seekState).out.inputs = .write 0x004#14 4 0x106#32 :: []
      ∧ (inputsTo [wrReg .cmd 0x106#32] seekState).eng.fsm ≠ .idle := by decide

theorem witness_NopCompletesAtOnce : State.reset.eng.fsm = .idle := by decide

theorem witness_ReadNextStarts :
    (State.reset.eng.fsm = .idle ∧ State.reset.eng.eos = false)
      ∧ (latchEos State.reset).eng.fsm = .idle ∧ (latchEos State.reset).eng.eos = true := by decide

/-- Both clauses: 64 bits of 8 bytes are in range, 65 are not. -/
theorem witness_ExtractResult :
    (withDbuf stripes State.reset).eng.fsm = .idle ∧ (withDbuf stripes State.reset).regs.dbufLen.toNat = 8
      ∧ 1 ≤ 64 ∧ 64 ≤ 64 ∧ (0 + 64 + 7) / 8 ≤ 8 ∧ ¬ 65 ≤ 64 := by decide

/-- Both clauses: the empty range at the end is in range, one byte there is not. -/
theorem witness_CrcComputeResult :
    (withDbuf digits State.reset).eng.fsm = .idle ∧ (withDbuf digits State.reset).regs.dbufLen.toNat = 9
      ∧ 9 + 0 ≤ 9 ∧ ¬ 9 + 1 ≤ 9 := by decide

theorem witness_CrcValidateResult :
    (withDbuf digits State.reset).eng.fsm = .idle ∧ (withDbuf digits State.reset).regs.dbufLen.toNat = 9
      ∧ 0 + 9 ≤ 9 ∧ ¬ 1 + 9 ≤ 9 := by decide

theorem witness_ExecCompletesAfterItsLatency :
    execState.eng.fsm = .exec ∧ execState.eng.op.isSome = true ∧ execState.status.done = false
      ∧ execState.free.work = 1 := by decide

theorem witness_AbortEffect :
    State.reset.eng.fsm = .idle ∧ seekState.eng.fsm = .seek ∧ inFrameState.eng.fsm.inFrame = true
      ∧ execState.eng.fsm = .exec
      ∧ goesTo (exec (.abort .dbuf .crc8) inFrameState) (fun t => t.eng.fsm = .idle) = true := by decide

theorem witness_CommandsKeepMemoryAndOperands :
    goesTo (exec (.abort .dbuf .crc8) inFrameState) (fun t => t.status.done) = true
      ∧ (∀ b c, Instr.abort .dbuf .crc8 ≠ .softReset b c) := by
  refine ⟨by decide, ?_⟩
  intro b c h
  cases h

theorem witness_IgnoredFieldsDoNotMatter : (execState.eng.op.map (·.kind)) = some .crcCompute
    ∧ ((executing .extract .dbuf 0#32 1#32 0#32 State.reset).eng.op.map (·.kind)) = some .extract := by decide

theorem witness_RecoverableFollowsPolicy :
    seekState.ctrl.policy = .raise ∧ State.reset.ctrl.policy = .logAndContinue
      ∧ (withPolicy .ignore State.reset).ctrl.policy = .ignore := by decide

theorem witness_SeekTakesByte :
    seekState.eng.fsm = .seek ∧ seekState.out.src = .byte 0x00#8 :: [.eos]
      ∧ (offering [.byte 0x73#8] seekState).out.src = .byte 0x73#8 :: [] := by decide

/-- At the bounds: one byte needed, the last FBUF index a frame uses. -/
theorem witness_ChunkTakesByte :
    let s : State := offering [.byte 1#8]
      { inFrameState with eng := { Engine.reset with fsm := .crc, need := 1, pos := 1102 } }
    s.eng.fsm.inFrame = true ∧ 1 ≤ s.eng.need ∧ s.eng.pos ≤ 1102 ∧ s.out.src = .byte 1#8 :: [] := by decide

theorem witness_FrameStartDecoded : inFrameState.eng.fsm = .fs := by decide

/-- The clauses of both chunks: TTT = 1; TTT = 0 with and without EAF; after the time tag likewise. -/
theorem witness_DescriptorExtensionsInOrder :
    let pd (b : Byte) (eaf : Bool) : State :=
      { State.reset with mem := [(0x1004, b)], eng := { Engine.reset with fsm := .pd, fEaf := eaf } }
    (∀ eaf, (pd 0x08#8 eaf).eng.fsm = .pd ∧ (bufByte (pd 0x08#8 eaf) .fbuf 4).toNat / 2 ^ 3 % 2 = 1)
      ∧ (∀ eaf, (bufByte (pd 0xF7#8 eaf) .fbuf 4).toNat / 2 ^ 3 % 2 = 0 ∧ (pd 0xF7#8 eaf).eng.fEaf = eaf)
      ∧ (∀ eaf, ({ Engine.reset with fsm := .pdTt, fEaf := eaf } : Engine).fEaf = eaf) := by decide

theorem witness_PayloadDescriptorDecoded :
    ∀ ttt eaf : Bool,
      let s : State := { State.reset with
        eng := { Engine.reset with
          fsm := .pdEa, fTtt := ttt, fEaf := eaf, pos := 8 + 2 * ttt.toNat + 2 * eaf.toNat } }
      s.eng.pos = 8 + 2 * s.eng.fTtt.toNat + 2 * s.eng.fEaf.toNat ∧ s.eng.fEaf = eaf := by decide

/-- R94 at the ends of its ranges: AI = 1 and 2, EALC = 4 and 5. -/
theorem witness_AuthLengthTable :
    authLen true 1#3 4#3 = 0 ∧ authLen true 2#3 4#3 = 64 ∧ authLen true 2#3 5#3 = 0 := by decide

/-- The three clauses of the payload's end, and the auth chunk's end. -/
theorem witness_AuthDecision :
    let s (ai ealc : BitVec 3) (strict : Bool) : State := { State.reset with
      ctrl := { Ctrl.reset with strictEal := strict }
      eng := { Engine.reset with fsm := .payload, fEaf := true, fAi := ai, fEalc := ealc } }
    ((s 2#3 4#3 true).eng.fsm = .payload
        ∧ ¬ ((s 2#3 4#3 true).eng.fEaf = true ∧ 1 < (s 2#3 4#3 true).eng.fAi.toNat
          ∧ 5 ≤ (s 2#3 4#3 true).eng.fEalc.toNat))
      ∧ (∀ strict, ((s 2#3 5#3 strict).eng.fEaf = true ∧ 1 < (s 2#3 5#3 strict).eng.fAi.toNat
          ∧ 5 ≤ (s 2#3 5#3 strict).eng.fEalc.toNat) ∧ (s 2#3 5#3 strict).ctrl.strictEal = strict)
      ∧ (inFsm .auth).eng.fsm = .auth := by decide

/-- A state at the end of a CRC-8 trailer with no core bytes, the trailer being `b`. -/
def trailerState (b : Byte) : State :=
  { State.reset with
    mem := [(0x1001, b)]
    eng := { Engine.reset with fsm := .crc, pos := 2 } }

/-- The clauses of the trailer, whatever CRC_PARAMS is: no check, a match, and a mismatch. -/
theorem witness_TrailerChecked :
    (atTrailer.eng.fsm = .crc ∧ atTrailer.ctrl.crcEn = false)
      ∧ (∃ b, (trailerState b).eng.fsm = .crc ∧ (trailerState b).ctrl.crcEn = true
        ∧ coreCrc (trailerState b) = receivedCrc (trailerState b))
      ∧ (∃ b, (trailerState b).eng.fsm = .crc ∧ (trailerState b).ctrl.crcEn = true
        ∧ coreCrc (trailerState b) ≠ receivedCrc (trailerState b)) := by
  have core : ∀ b, coreCrc (trailerState b) = (crc (Config.crcParams 8) [] : Byte).setWidth 32 := fun _ => rfl
  have rx : ∀ b : Byte, receivedCrc (trailerState b) = b.setWidth 32 := by
    intro b
    apply BitVec.eq_of_toNat_eq
    simp [receivedCrc, trailerState, crcBytes, crcCode, Engine.reset, bufSlice, bufByte, byteAt, memLookup,
      bufBase, Config.fbufBase, beNat]
  refine ⟨by decide, ⟨crc (Config.crcParams 8) [], rfl, rfl, ?_⟩, ⟨~~~(crc (Config.crcParams 8) []), rfl, rfl, ?_⟩⟩
  · rw [core, rx]
  · rw [core, rx]
    generalize crc (Config.crcParams 8) [] = c
    intro h
    have := congrArg (fun x => x.getLsbD 0) h
    simp at this

theorem witness_StreamEndsInsideFrame :
    inFrameState.eng.fsm.inFrame = true ∧ (offering [.eos] inFrameState).out.src = .eos :: []
      ∧ (offering [.err] inFrameState).out.src = .err :: [] := by decide

theorem witness_StreamEndsBetweenFrames :
    seekState.eng.fsm = .seek ∧ (offering [.eos] seekState).out.src = .eos :: []
      ∧ (offering [.err] seekState).out.src = .err :: [] := by decide

theorem witness_StateGraphIsClosed :
    Inv inFrameState ∧ goesTo (engineStep inFrameState) (fun t => t.eng.fsm = .fs) = true :=
  ⟨inv_inFrameState, by decide⟩

theorem witness_EngineTakesOnlyOfferedEvents :
    (srcReady State.reset = false ∧ goesTo (engineStep State.reset) (fun _ => true) = true)
      ∧ (srcReady (offering [] seekState) = true ∧ (offering [] seekState).out.src = [])
      ∧ (srcReady inFrameState = true ∧ inFrameState.out.src = .byte 0x02#8 :: [.eos]
        ∧ goesTo (engineStep inFrameState) (fun _ => true) = true) := by decide

theorem witness_SourceOffersInOrder :
    (fresh (.offer .eos)).out.inputs = .offer .eos :: [] ∧ (fresh (.offer .eos)).out.srcEnded = false
      ∧ refusedWith (step { State.reset with
          out := { State.reset.out with inputs := [.offer .eos], srcEnded := true } }) .offerAfterEnd = true := by
  decide

theorem witness_ReadIgnoresOperands :
    seekState.eng.fsm.reading = true ∧ goesTo (engineStep seekState) (fun _ => true) = true := by decide

theorem witness_RegisterMapReads :
    (fresh (.read 0x000#14 4)).out.inputs = .read 0x000#14 4 :: []
      ∧ (fresh (.read 0x064#14 4)).out.inputs = .read 0x064#14 4 :: [] := by decide

theorem witness_CtrlWriteIsWarl :
    State.reset.eng.fsm = .idle
      ∧ (fresh (.write 0x000#14 4 0x24#32)).out.inputs = .write 0x000#14 4 0x24#32 :: []
      ∧ (0x24#32).toNat / 2 % 4 ≠ 3 ∧ (0xFFFFFFFF#32).toNat / 2 % 4 = 3 := by decide

theorem witness_StatusWriteClears :
    (fresh (.write 0x008#14 4 0x3002#32)).out.inputs = .write 0x008#14 4 0x3002#32 :: [] := by decide

theorem witness_OperandWritesStore :
    State.reset.eng.fsm = .idle
      ∧ (fresh (.write 0x00C#14 4 1#32)).out.inputs = .write 0x00C#14 4 1#32 :: []
      ∧ (fresh (.write 0x010#14 4 1#32)).out.inputs = .write 0x010#14 4 1#32 :: []
      ∧ (fresh (.write 0x014#14 4 1#32)).out.inputs = .write 0x014#14 4 1#32 :: []
      ∧ (fresh (.write 0x018#14 4 1#32)).out.inputs = .write 0x018#14 4 1#32 :: [] := by decide

/-- A register, the two ends of the DBUF window, and three CMD words: an EXTRACT, an illegal word, and an ABORT
while a command is in EXEC. -/
theorem witness_BusyWritesAreLost :
    execState.eng.fsm ≠ .idle
      ∧ (inputsTo [.write 0x000#14 4 0#32] execState).out.inputs = .write 0x000#14 4 0#32 :: []
      ∧ (inputsTo [.write 0x2000#14 4 0#32] execState).out.inputs = .write 0x2000#14 4 0#32 :: []
      ∧ (0x2000 ≤ (0x2000#14).toNat ∧ (0x2000#14).toNat % 4 = 0)
      ∧ (0x2000 ≤ (0x27FF#14).toNat ∧ (0x27FF#14).toNat < 0x2800)
      ∧ decode 2#32 = .ok (.extract .dbuf .crc8) ∧ decode 5#32 = .ok (.abort .dbuf .crc8)
      ∧ decode 7#32 = .error .reservedOpcode := by decide

theorem witness_ReadOnlyWritesIgnored :
    (fresh (.write 0x01C#14 4 1#32)).out.inputs = .write 0x01C#14 4 1#32 :: []
      ∧ (fresh (.write 0x064#14 4 1#32)).out.inputs = .write 0x064#14 4 1#32 :: []
      ∧ (fresh (.write 0x17FF#14 1 1#32)).out.inputs = .write 0x17FF#14 1 1#32 :: []
      ∧ (0x1000 ≤ (0x17FF#14).toNat ∧ (0x17FF#14).toNat < 0x1800) := by decide

/-- Boundary accesses that are not admitted: the offset after the last register, and one after each window. -/
theorem witness_UnadmittedAccessSetsAccerr :
    let bad (off : BitVec 14) : Prop :=
      ¬ (off.toNat % 4 = 0 ∧ off.toNat ≤ 0x064) ∧ ¬ (0x1000 ≤ off.toNat ∧ off.toNat < 0x1800)
        ∧ ¬ (0x2000 ≤ off.toNat ∧ off.toNat < 0x2800)
        ∧ (fresh (.read off 4)).out.inputs = .read off 4 :: []
        ∧ (fresh (.write off 4 1#32)).out.inputs = .write off 4 1#32 :: []
    bad 0x068#14 ∧ bad 0x1800#14 ∧ bad 0x2800#14 := by
  refine ⟨?_, ?_, ?_⟩ <;> decide

theorem witness_WindowReads :
    (0x1000 ≤ (0x1000#14).toNat ∧ (0x1000#14).toNat < 0x1800)
      ∧ (0x2000 ≤ (0x27FC#14).toNat ∧ (0x27FC#14).toNat < 0x2800 ∧ (0x27FC#14).toNat % 4 = 0)
      ∧ (fresh (.read 0x1000#14 1)).out.inputs = .read 0x1000#14 1 :: []
      ∧ (fresh (.read 0x27FC#14 4)).out.inputs = .read 0x27FC#14 4 :: [] := by decide

theorem witness_WindowWrites :
    State.reset.eng.fsm = .idle ∧ 0x2000 ≤ (0x2000#14).toNat ∧ (0x27FC#14).toNat < 0x2800
      ∧ (0x27FC#14).toNat % 4 = 0
      ∧ (fresh (.write 0x2000#14 1 1#32)).out.inputs = .write 0x2000#14 1 1#32 :: []
      ∧ (fresh (.write 0x27FC#14 4 1#32)).out.inputs = .write 0x27FC#14 4 1#32 :: [] := by decide

theorem witness_InterruptFollowsDone :
    goesTo (step (fresh (.write 0x008#14 4 2#32))) (fun _ => true) = true
      ∧ (2#32).toNat / 2 % 2 = 1
      ∧ (State.reset.eng.fsm = .idle
        ∧ goesTo (exec (.readNext .dbuf .crc8) State.reset) (fun t => t.eng.fsm ≠ .idle) = true)
      ∧ goesTo (step (fresh .rst)) (fun _ => true) = true
      ∧ State.reset.ctrl.policy = .logAndContinue := by decide

theorem witness_HardwareResetValues : (inputsTo [.rst] execState).out.inputs = .rst :: [] := by decide

theorem witness_StepKeepsInvariant :
    Inv atTrailer ∧ goesTo (step atTrailer) (fun t => t.status.outcome = .ok) = true :=
  ⟨inv_atTrailer, by decide⟩

/-- A source that offers after its end is refused in a state of the invariant. -/
theorem witness_InvariantStatesNeverFault :
    let s : State := { seekState with out := { seekState.out with inputs := [.offer .eos], srcEnded := true } }
    Inv s ∧ isNext (step s) = false :=
  ⟨inv_seekState, by decide⟩

/-- The two ways: the reset input, and a SOFT_RESET. -/
theorem witness_EosClearedOnlyByReset :
    let s (i : Input) : State := inputsTo [i] (latchEos State.reset)
    (∀ i, (s i).eng.eos = true) ∧ goesTo (step (s .rst)) (fun t => !t.eng.eos) = true
      ∧ goesTo (step (s (wrReg .cmd 6#32))) (fun t => !t.eng.eos) = true := by
  refine ⟨fun _ => rfl, by decide, by decide⟩

theorem witness_OperandsStableWhileBusy :
    goesTo (step inFrameState) (fun t => t.eng.fsm ≠ .idle) = true ∧ inFrameState.out.inputs = []
      ∧ inFrameState.eng.fsm ≠ .idle
      ∧ goesTo (step (inputsTo [wrReg .arg0 9#32] inFrameState))
          (fun t => t.eng.fsm ≠ .idle && t.regs.arg0 = 0#32) = true := by decide

/-- A step that takes a byte, one that takes an Eos, and one that takes nothing. -/
theorem witness_CursorCountsTakenBytes :
    goesTo (engineStep inFrameState) (fun t => t.eng.cursor = 1) = true
      ∧ goesTo (engineStep (offering [.eos] seekState)) (fun t => t.eng.cursor = 0) = true
      ∧ goesTo (engineStep State.reset) (fun t => t.eng.cursor = 0) = true := by decide

theorem witness_FrameCountCountsDeliveries :
    Inv atTrailer ∧ atTrailer.eng.fsm.reading = true
      ∧ goesTo (engineStep atTrailer) (fun t => t.status.outcome = .ok) = true
      ∧ Inv seekState ∧ seekState.eng.fsm.reading = true
      ∧ goesTo (engineStep seekState) (fun t => t.status.outcome = .error) = true :=
  ⟨inv_atTrailer, by decide, by decide, inv_seekState, by decide, by decide⟩

theorem witness_ReadOutcomesByPolicy :
    Inv seekState ∧ seekState.eng.fsm.reading = true
      ∧ goesTo (engineStep seekState) (fun t => t.status.outcome = .error) = true
      ∧ Inv (offering [.err] inFrameState)
      ∧ goesTo (engineStep (offering [.err] inFrameState)) (fun t => t.status.outcome = .streamError) = true
      ∧ goesTo (engineStep inFrameState) (fun t => t.eng.fsm ≠ .idle) = true :=
  ⟨inv_seekState, by decide, by decide, inv_inFrameState, by decide, by decide⟩

theorem witness_ReadNextTerminates :
    Inv inFrameState ∧ inFrameState.eng.fsm.reading = true
      ∧ inFrameState.out.src = [0x02#8].map .byte ++ .eos :: [] := ⟨inv_inFrameState, by decide, by decide⟩

/-- At the bounds: 64 bits that end with the buffer's last bit. -/
theorem witness_ExtIsTheBitSum : 1 ≤ 64 ∧ 64 ≤ 64 ∧ (0 + 64 + 7) / 8 ≤ stripes.length := by decide

theorem witness_ExtLaws :
    0 + 8 ≤ stripes.length
      ∧ (∀ i, 8 / 8 ≤ i → i ≤ (8 + 8 - 1) / 8 → stripes.getD i 0#8 = ([7#8, 0#8] : List Byte).getD i 0#8) := by
  refine ⟨by decide, ?_⟩
  intro i h1 h2
  obtain rfl : i = 1 := by omega
  decide

theorem witness_CrcDetectsSingleBitErrors :
    8 ≤ 8 ∧ (⟨0x07#8, 0#8, false, false, 0#8⟩ : CrcParams 8).poly.getLsbD 0 = true ∧ 7 < 8 := by decide

theorem witness_FrameLengthFormula : smallFrame.wf = true := by decide

/-- The small frame behind one byte of noise, before an Eos, whatever CRC_PARAMS is. -/
theorem witness_WireFrameRoundTrip :
    let s : State := { State.reset with
      out := { State.reset.out with
        inputs := expand .readNext
        src := ([0x00#8] ++ encodeFrame smallFrame).map .byte ++ [.eos] } }
    smallFrame.wf = true ∧ (smallFrame.authMapped = true ∨ s.ctrl.strictEal = false)
      ∧ (∀ b ∈ [0x00#8], b ≠ Config.preamble) ∧ (s.ctrl.upe = false ∨ s.ctrl.policy ≠ .raise)
      ∧ s.eng.fsm = .idle ∧ s.eng.eos = false ∧ s.out.inputs = expand .readNext
      ∧ s.out.src = ([0x00#8] ++ encodeFrame smallFrame).map .byte ++ [.eos] :=
  ⟨by decide, by decide, by decide, by decide, rfl, rfl, rfl, rfl⟩

end Sys2Proof.Tests
end

section
/-!
The host bus (spec/20_memory.md): which accesses the bus admits, and the statement about those it does not (R63).
-/

namespace Sys2Proof.Machine

/-- A register-space access of R61: 4 bytes wide, at a multiple of 4 up to the last register's offset. -/
def IsRegAccess (off : BitVec 14) (width : Nat) : Prop :=
  width = 4 ∧ off.toNat % 4 = 0 ∧ off.toNat ≤ 0x064

/-- An access of R62 to the 2048-byte window at `base`: one byte anywhere, or 4 bytes at a multiple of 4. -/
def IsWindowAccess (base : Nat) (off : BitVec 14) (width : Nat) : Prop :=
  base ≤ off.toNat ∧ off.toNat < base + 0x800 ∧ (width = 1 ∨ width = 4 ∧ off.toNat % 4 = 0)

/-- Registers sit at multiples of 4 up to 0x064 (R21). -/
theorem regOffset_bounds (r : Reg) : regOffset r % 4 = 0 ∧ regOffset r ≤ 0x064 := by
  cases r <;> decide

/-- The register found at an offset has that offset (R21). -/
theorem eq_regOffset_of_regAt {off : Nat} {r : Reg} (h : regAt off = some r) : off = regOffset r := by
  have hr : (regOffset r == off) = true := List.find?_some (p := fun r => regOffset r == off) h
  exact (eq_of_beq hr).symm

/-- An access that reaches a target in a window is one R62 admits. -/
theorem isWindowAccess_of_windowAt {off : BitVec 14} {width i : Nat} {b : Source}
    (h : windowAt off.toNat = some (b, i)) (hw : width = 1 ∨ width = 4 ∧ off.toNat % 4 = 0) :
    IsWindowAccess (bufBase b) off width := by
  obtain ⟨hi, hoff⟩ := windowAt_eq h
  exact ⟨by omega, by omega, hw⟩

/-- An access that reaches a register is one R61 admits. -/
theorem isRegAccess_of_regAt {off : BitVec 14} {r : Reg} (h : regAt off.toNat = some r) :
    IsRegAccess off 4 := by
  obtain ⟨haligned, hle⟩ := regOffset_bounds r
  rw [← eq_regOffset_of_regAt h] at haligned hle
  exact ⟨rfl, haligned, hle⟩

/-- The bus admits only the accesses of R61 and R62. -/
theorem isAccess_of_accessTarget {off : BitVec 14} {width : Nat} {t : Target}
    (h : accessTarget off width = some t) :
    IsRegAccess off width ∨ ∃ b, IsWindowAccess (bufBase b) off width := by
  unfold accessTarget at h
  split at h
  case h_1 b i hwin =>
    refine .inr ⟨b, isWindowAccess_of_windowAt hwin ?_⟩
    split at h
    case isTrue hone => exact .inl hone
    case isFalse =>
      split at h
      case isTrue hfour => exact .inr hfour
      case isFalse => cases h
  case h_2 =>
    split at h
    case isTrue hfour =>
      obtain ⟨r, hr, -⟩ := Option.map_eq_some_iff.mp h
      exact .inl (hfour ▸ isRegAccess_of_regAt hr)
    case isFalse => cases h

/-- An access outside R61 and R62 has no target (R63). -/
theorem accessTarget_eq_none {off : BitVec 14} {width : Nat} (hreg : ¬ IsRegAccess off width)
    (hfbuf : ¬ IsWindowAccess 0x1000 off width) (hdbuf : ¬ IsWindowAccess 0x2000 off width) :
    accessTarget off width = none := by
  refine Option.eq_none_iff_forall_ne_some.mpr fun t ht => ?_
  obtain h | ⟨b, h⟩ := isAccess_of_accessTarget ht
  · exact hreg h
  · cases b with
    | fbuf => exact hfbuf h
    | dbuf => exact hdbuf h

/-- A write that reaches no target sets ACCERR (R63). -/
theorem busWrite_of_no_target {off : BitVec 14} {width : Nat} (h : accessTarget off width = none)
    (v : Word) (s : State) : busWrite off width v s = .next (setAccErr s) := by
  simp [busWrite, h]

/-- A read that reaches no target returns 0 and sets ACCERR (R63). -/
theorem busRead_of_no_target {off : BitVec 14} {width : Nat} (h : accessTarget off width = none)
    (s : State) :
    busRead off width s = setAccErr { s with out := { s.out with hostRead := some 0#32 } } := by
  simp [busRead, h]

/-- Settles O41: such an access has no target, and an access without a target has R63's effect alone. -/
theorem unadmittedAccessSetsAccerr : Obligations.UnadmittedAccessSetsAccerr := by
  intro s off width v rest hreg hfbuf hdbuf
  have htarget : accessTarget off width = none := accessTarget_eq_none hreg hfbuf hdbuf
  constructor
  · intro hin
    rw [step_of_write hin, busWrite_of_no_target htarget]
    rfl
  · intro hin
    rw [step_of_read hin, busRead_of_no_target htarget]
    rfl

end Sys2Proof.Machine
end

section
/-!
Bit-field extraction (spec/40_bitfield.md): the extractor as the sum of its bits (R110), and the EXTRACT
command (R113), with the run from start to completion that the three EXEC commands share (R70, R180, R248).
-/

namespace Sys2Proof.Machine

/-! ## The extractor as a sum -/

/-- A bit of a byte sequence in the arithmetic form of R110: a shift right, then the lowest bit. -/
theorem bitAt_eq_div_mod (buf : List Byte) (k : Nat) :
    bitAt buf k = (buf.getD (k / 8) 0#8).toNat / 2 ^ (7 - k % 8) % 2 := by
  rw [bitAt, BitVec.getLsbD, Nat.toNat_testBit]

/-- `ext` weighs bit `i` of its `n` bits by `2^(n-1-i)`: each further bit doubles the weights of those before. -/
theorem ext_eq_sum (buf : List Byte) (off n : Nat) :
    ext buf off n = ((List.range n).map (fun i => bitAt buf (off + i) * 2 ^ (n - 1 - i))).sum := by
  induction n with
  | zero => rfl
  | succ n ih =>
    have hdouble : ∀ i ∈ List.range n,
        2 * (bitAt buf (off + i) * 2 ^ (n - 1 - i)) = bitAt buf (off + i) * 2 ^ (n + 1 - 1 - i) := by
      intro i hi
      have hexp : n + 1 - 1 - i = n - 1 - i + 1 := by have := List.mem_range.mp hi; omega
      rw [hexp, Nat.pow_succ]
      ring
    calc ext buf off (n + 1)
        = 2 * ((List.range n).map (fun i => bitAt buf (off + i) * 2 ^ (n - 1 - i))).sum
            + bitAt buf (off + n) := by rw [ext, ih]
      _ = ((List.range n).map (fun i => bitAt buf (off + i) * 2 ^ (n + 1 - 1 - i))).sum
            + bitAt buf (off + n) := by rw [← List.sum_map_mul_left, List.map_congr_left hdouble]
      _ = _ := by simp [List.range_succ]

/-- Settles O56: `ext` is the sum of its weighted bits, and each bit is R110's shift and mask. -/
theorem extIsTheBitSum : Obligations.ExtIsTheBitSum := by
  intro buf off n _ _ _
  simp only [ext_eq_sum, bitAt_eq_div_mod]

/-! ## A command in EXEC, from its start to its completing step -/

/-- The snapshot a CMD write takes of the operand registers (R70). -/
@[simps]
def operandsAt (k : ExecKind) (b : Source) (c : CrcSel) (s : State) : Op :=
  { kind := k, src := b, crcw := c, arg0 := s.regs.arg0, arg1 := s.regs.arg1,
    expected := s.regs.expected, dbufLen := s.regs.dbufLen }

/-- The state in which a command started in `s` takes its completing step, its latency over. -/
def atCompletion (k : ExecKind) (b : Source) (c : CrcSel) (s : State) : State :=
  { enterExec k b c s with free := { (enterExec k b c s).free with work := 0 } }

@[simp] theorem atCompletion_ctrl (k : ExecKind) (b : Source) (c : CrcSel) (s : State) :
    (atCompletion k b c s).ctrl = s.ctrl := rfl

@[simp] theorem atCompletion_status (k : ExecKind) (b : Source) (c : CrcSel) (s : State) :
    (atCompletion k b c s).status = s.status := rfl

@[simp] theorem atCompletion_regs (k : ExecKind) (b : Source) (c : CrcSel) (s : State) :
    (atCompletion k b c s).regs = s.regs := rfl

@[simp] theorem atCompletion_mem (k : ExecKind) (b : Source) (c : CrcSel) (s : State) :
    (atCompletion k b c s).mem = s.mem := rfl

@[simp] theorem atCompletion_eng (k : ExecKind) (b : Source) (c : CrcSel) (s : State) :
    (atCompletion k b c s).eng = (enterExec k b c s).eng := rfl

@[simp] theorem atCompletion_out (k : ExecKind) (b : Source) (c : CrcSel) (s : State) :
    (atCompletion k b c s).out = s.out := rfl

/-- A started command runs its completing step on the snapshot, whatever its latency is (R180, R248). -/
theorem engineRun_enterExec (k : ExecKind) (b : Source) (c : CrcSel) (s : State) :
    engineRun ((enterExec k b c s).free.work + 1) (enterExec k b c s) =
      .next (finishExec (operandsAt k b c s) (atCompletion k b c s)) :=
  engineRun_of_exec rfl rfl rfl

/-- The logical length L of a source buffer, by its length register (R84). -/
def sourceLen (b : Source) (s : State) : Nat :=
  match b with
  | .dbuf => s.regs.dbufLen.toNat
  | .fbuf => s.regs.frameLen.toNat

/-- A command works with the logical length its source had at the start (R84). -/
@[simp] theorem bufLen_atCompletion (k : ExecKind) (b : Source) (c : CrcSel) (s : State) :
    bufLen (operandsAt k b c s) (atCompletion k b c s) = sourceLen b s := by
  cases b <;> rfl

/-- A command's start and latency leave both buffers as they were. -/
@[simp] theorem bufSlice_atCompletion (k : ExecKind) (b b' : Source) (c : CrcSel) (s : State) (i n : Nat) :
    bufSlice (atCompletion k b c s) b' i n = bufSlice s b' i n :=
  bufSlice_congr rfl rfl b' i n

/-! ## EXTRACT -/

/-- The range check of a host extraction as a proposition (R112). -/
theorem rangeOkExt_iff (b : Source) (len off n : Nat) :
    rangeOkExt b len off n = true ↔
      ¬ (b = .dbuf ∧ 2048 < len) ∧ 1 ≤ n ∧ n ≤ 64 ∧ (off + n + 7) / 8 ≤ len := by
  rw [← bytesForBits]
  simp only [rangeOkExt, Config.dbufSize, Bool.and_eq_true, Bool.not_eq_true', Bool.and_eq_false_iff,
    decide_eq_true_eq, decide_eq_false_iff_not, not_and_or, and_assoc]

/-- The low word of a 64-bit result (R30). -/
theorem extractLsb'_low_ofNat (v : Nat) :
    (BitVec.ofNat 64 v).extractLsb' 0 32 = BitVec.ofNat 32 (v % 2 ^ 32) := by
  apply BitVec.eq_of_toNat_eq
  simp only [BitVec.extractLsb'_toNat, BitVec.toNat_ofNat, Nat.shiftRight_zero]
  omega

/-- The high word of a 64-bit result (R30). -/
theorem extractLsb'_high_ofNat (v : Nat) :
    (BitVec.ofNat 64 v).extractLsb' 32 32 = BitVec.ofNat 32 (v / 2 ^ 32) := by
  apply BitVec.eq_of_toNat_eq
  simp only [BitVec.extractLsb'_toNat, BitVec.toNat_ofNat, Nat.shiftRight_eq_div_pow]
  omega

/-- The field a host extraction asks for: ARG1 bits at bit offset ARG0 of the source's first L bytes (R113). -/
def extractField (b : Source) (s : State) : Nat :=
  ext (bufSlice s b 0 (sourceLen b s)) s.regs.arg0.toNat s.regs.arg1.toNat

/-- EXTRACT in range completes with OK and the field in RES_HI:RES_LO (R113). -/
theorem finishExec_extract_of_inRange (b : Source) (c : CrcSel) (s : State)
    (h : rangeOkExt b (sourceLen b s) s.regs.arg0.toNat s.regs.arg1.toNat = true) :
    finishExec (operandsAt .extract b c s) (atCompletion .extract b c s) =
      complete .ok .none
        (setResult (BitVec.ofNat 32 (extractField b s % 2 ^ 32))
          (BitVec.ofNat 32 (extractField b s / 2 ^ 32)) (atCompletion .extract b c s)) := by
  simp [finishExec, finishExtract, extractValue, extractField, h, extractLsb'_low_ofNat,
    extractLsb'_high_ofNat]

/-- EXTRACT out of range completes with OUT_OF_RANGE (R113). -/
theorem finishExec_extract_of_outOfRange (b : Source) (c : CrcSel) (s : State)
    (h : ¬ rangeOkExt b (sourceLen b s) s.regs.arg0.toNat s.regs.arg1.toNat = true) :
    finishExec (operandsAt .extract b c s) (atCompletion .extract b c s) =
      failRange (atCompletion .extract b c s) := by
  simp [finishExec, finishExtract, h]

/-- LAST_ERR after a failed range check (R113): OUT_OF_RANGE, not fatal, raised. -/
theorem lastErrWord_outOfRange : lastErrWord .outOfRange false true = 0x24#32 := by decide

/-- EXTRACT while idle captures its operands and enters EXEC (R113, R180). -/
theorem exec_extract_of_idle {s : State} (h : s.eng.fsm = .idle) (b : Source) (c : CrcSel) :
    exec (.extract b c) s = .next (enterExec .extract b c (beginCommand 2#4 s)) :=
  congrArg Host.Outcome.next (startExec_of_idle h)

/-- The EXTRACT word's fields are its opcode and SRC (R81, R113). -/
theorem decode_extract_word (b : Source) :
    decode (BitVec.ofNat 32 (2 + 16 * sourceBit b)) = .ok (.extract b .crc8) := by
  cases b <;> decide

/-- Settles O8: the start captures the operands, the latency changes nothing, and the completing step is one of
two, by the range check. -/
theorem extractResult : Obligations.ExtractResult := by
  refine ⟨decode_extract_word, fun s b c hidle => ?_⟩
  refine ⟨_, exec_extract_of_idle hidle b c, rfl, rfl, _, engineRun_enterExec .extract b c _, ?_⟩
  intro len off n inRange v
  have hrange : rangeOkExt b (sourceLen b (beginCommand 2#4 s)) off n = true ↔ inRange :=
    rangeOkExt_iff b len off n
  by_cases hin : inRange
  · have hv : extractField b (beginCommand 2#4 s) = v := rfl
    rw [finishExec_extract_of_inRange b c (beginCommand 2#4 s) (hrange.mpr hin), hv]
    simp [hin, hidle]
  · rw [finishExec_extract_of_outOfRange b c (beginCommand 2#4 s) (mt hrange.mp hin), failRange]
    simp [hin, hidle, lastErrWord_outOfRange]

end Sys2Proof.Machine
end

section
/-!
The CRC commands (spec/41_crc.md): CRC_COMPUTE (R126) and CRC_VALIDATE (R127), whose completing steps differ
only in the two result words they write when the range check of R125 holds.
-/

namespace Sys2Proof.Machine

/-- The completion of an EXEC command behind its range check: with the result `hi:lo` if `ok` holds, with
OUT_OF_RANGE otherwise (R113, R126, R127). -/
def completeChecked (ok : Bool) (lo hi : Word) (s : State) : State :=
  if ok then complete .ok .none (setResult lo hi s) else failRange s

/-- What the completion of a command started while idle has changed since the start: the result registers and
the completion flags, and LAST_ERR when the range check failed (R180, R181). -/
theorem completeChecked_atCompletion {s : State} (hidle : s.eng.fsm = .idle) (k : ExecKind) (op : BitVec 4)
    (b : Source) (c : CrcSel) (ok : Bool) (lo hi : Word) :
    let u := completeChecked ok lo hi (atCompletion k b c (beginCommand op s))
    u.mem = s.mem ∧ u.ctrl = s.ctrl ∧ u.out = s.out
      ∧ u.eng = { s.eng with op := (enterExec k b c (beginCommand op s)).eng.op }
      ∧ (ok = true →
          u.regs = { s.regs with resLo := lo, resHi := hi }
          ∧ u.status = { s.status with done := true, outcome := .ok, errCode := .none, cmdOp := op })
      ∧ (¬ ok = true →
          u.regs = { s.regs with resLo := 0#32, resHi := 0#32, lastErr := 0x24#32 }
          ∧ u.status = { s.status with
              done := true, outcome := .error, errCode := .outOfRange, cmdOp := op }) := by
  cases ok with
  | true => simp [completeChecked, hidle]
  | false => simp [completeChecked, failRange, hidle, lastErrWord_outOfRange]

/-- The range check of a host CRC as a proposition (R125). -/
theorem rangeOkCrc_iff (b : Source) (len start count : Nat) :
    rangeOkCrc b len start count = true ↔ ¬ (b = .dbuf ∧ 2048 < len) ∧ start + count ≤ len := by
  simp only [rangeOkCrc, Config.dbufSize, Bool.and_eq_true, Bool.not_eq_true', Bool.and_eq_false_iff,
    decide_eq_true_eq, decide_eq_false_iff_not, not_and_or]

/-- A command's completing step reads the range its operands gave at the start (R70, R126). -/
@[simp] theorem operandCrc_atCompletion (k : ExecKind) (b : Source) (c : CrcSel) (s : State) :
    operandCrc (operandsAt k b c s) (atCompletion k b c s) =
      crcWord c (bufSlice s b s.regs.arg0.toNat s.regs.arg1.toNat) := by
  simp [operandCrc]

/-! ## CRC_COMPUTE -/

/-- The CRC_COMPUTE word's fields are its opcode, SRC and CRCW (R81, R126). -/
theorem decode_crcCompute_word (b : Source) (c : CrcSel) :
    decode (BitVec.ofNat 32 (3 + 16 * sourceBit b + 64 * crcCode c)) = .ok (.crcCompute b c) := by
  cases b <;> cases c <;> decide

/-- CRC_COMPUTE while idle captures its operands and enters EXEC (R126, R180). -/
theorem exec_crcCompute_of_idle {s : State} (h : s.eng.fsm = .idle) (b : Source) (c : CrcSel) :
    exec (.crcCompute b c) s = .next (enterExec .crcCompute b c (beginCommand 3#4 s)) :=
  congrArg Host.Outcome.next (startExec_of_idle h)

/-- CRC_COMPUTE's result is the CRC of the operand range in RES_LO (R126). -/
theorem finishExec_crcCompute (b : Source) (c : CrcSel) (s : State) :
    finishExec (operandsAt .crcCompute b c s) (atCompletion .crcCompute b c s) =
      completeChecked (rangeOkCrc b (sourceLen b s) s.regs.arg0.toNat s.regs.arg1.toNat)
        (crcWord c (bufSlice s b s.regs.arg0.toNat s.regs.arg1.toNat)) 0#32
        (atCompletion .crcCompute b c s) := by
  simp [finishExec, finishCrcCompute, completeChecked]

/-- Settles O9: the start captures the operands, the latency changes nothing, and the completing step writes
the CRC behind the range check. -/
theorem crcComputeResult : Obligations.CrcComputeResult := by
  refine ⟨decode_crcCompute_word, fun s b c hidle => ?_⟩
  refine ⟨_, exec_crcCompute_of_idle hidle b c, rfl, rfl, _, engineRun_enterExec .crcCompute b c _, ?_⟩
  intro len start count inRange
  have hrange : rangeOkCrc b len start count = true ↔ inRange := rangeOkCrc_iff b len start count
  rw [finishExec_crcCompute, ← hrange]
  exact completeChecked_atCompletion hidle ..

/-! ## CRC_VALIDATE -/

/-- The CRC_VALIDATE word's fields are its opcode, SRC and CRCW (R81, R127). -/
theorem decode_crcValidate_word (b : Source) (c : CrcSel) :
    decode (BitVec.ofNat 32 (4 + 16 * sourceBit b + 64 * crcCode c)) = .ok (.crcValidate b c) := by
  cases b <;> cases c <;> decide

/-- CRC_VALIDATE while idle captures its operands and enters EXEC (R127, R180). -/
theorem exec_crcValidate_of_idle {s : State} (h : s.eng.fsm = .idle) (b : Source) (c : CrcSel) :
    exec (.crcValidate b c) s = .next (enterExec .crcValidate b c (beginCommand 4#4 s)) :=
  congrArg Host.Outcome.next (startExec_of_idle h)

/-- CRC_VALIDATE's result is the CRC of the operand range in RES_HI and its full compare with EXPECTED in
RES_LO (R123, R127). -/
theorem finishExec_crcValidate (b : Source) (c : CrcSel) (s : State) :
    finishExec (operandsAt .crcValidate b c s) (atCompletion .crcValidate b c s) =
      completeChecked (rangeOkCrc b (sourceLen b s) s.regs.arg0.toNat s.regs.arg1.toNat)
        (if crcWord c (bufSlice s b s.regs.arg0.toNat s.regs.arg1.toNat) = s.regs.expected then 1#32
          else 0#32)
        (crcWord c (bufSlice s b s.regs.arg0.toNat s.regs.arg1.toNat))
        (atCompletion .crcValidate b c s) := by
  simp [finishExec, finishCrcValidate, completeChecked]

/-- Settles O10: as CRC_COMPUTE, with the compare's verdict and the CRC behind the range check. -/
theorem crcValidateResult : Obligations.CrcValidateResult := by
  refine ⟨decode_crcValidate_word, fun s b c hidle => ?_⟩
  refine ⟨_, exec_crcValidate_of_idle hidle b c, rfl, rfl, _, engineRun_enterExec .crcValidate b c _, ?_⟩
  intro len start count inRange v
  have hrange : rangeOkCrc b len start count = true ↔ inRange := rangeOkCrc_iff b len start count
  rw [finishExec_crcValidate, ← hrange]
  exact completeChecked_atCompletion hidle ..

end Sys2Proof.Machine
end

section
/-!
Bit fields as integers (spec/40_bitfield.md R110, spec/00_scope.md R9): a field of a byte sequence is a quotient and
a remainder of the sequence's big-endian value, a slice of a buffer has the fields of the slices inside it, and a
packed register is the sum of its fields.
-/

namespace Sys2Proof.Machine

/-! ## A field of a byte sequence -/

@[simp] theorem beNat_concat (s : List Byte) (b : Byte) : beNat (s ++ [b]) = 2 ^ 8 * beNat s + b.toNat := by
  simp [beNat]

/-- A byte sequence's big-endian value fits its bits (R9). -/
theorem beNat_lt (s : List Byte) : beNat s < 2 ^ (8 * s.length) := by
  induction s using List.reverseRecOn with
  | nil => simp [beNat]
  | append_singleton s b ih =>
    have hb := b.isLt
    rw [beNat_concat, List.length_append, List.length_singleton, Nat.mul_add, Nat.pow_add]
    omega

/-- Bit `k` in stream order is the bit of the big-endian value with `e` bits behind it (R9, R110). -/
theorem bitAt_eq_testBit {buf : List Byte} {k e : Nat} (h : k + 1 + e = 8 * buf.length) :
    bitAt buf k = ((beNat buf).testBit e).toNat := by
  induction buf using List.reverseRecOn generalizing e with
  | nil => simp at h
  | append_singleton s b ih =>
    rw [List.length_append, List.length_singleton] at h
    rw [beNat_concat, Nat.testBit_two_pow_mul_add _ b.isLt]
    by_cases he : e < 8
    · have hbyte : k / 8 = s.length := by omega
      have hbit : 7 - k % 8 = e := by omega
      simp [bitAt, hbyte, hbit, he, BitVec.getLsbD]
    · have hbyte : k / 8 < s.length := by omega
      rw [if_neg he, ← ih (by omega), bitAt, bitAt, List.getD_append _ _ _ _ hbyte]

/-- A field with `e` bits behind it, as a quotient and a remainder of the big-endian value (R9, R110). -/
theorem ext_eq_beNat_div {buf : List Byte} {off n e : Nat} (h : off + n + e = 8 * buf.length) :
    ext buf off n = beNat buf / 2 ^ e % 2 ^ n := by
  induction n generalizing e with
  | zero => simp [ext, Nat.mod_one]
  | succ n ih =>
    have hbits : ext buf off n = beNat buf / 2 ^ e / 2 % 2 ^ n := by
      rw [ih (e := e + 1) (by omega), Nat.pow_succ, Nat.div_div_eq_div_mul]
    have hlast : bitAt buf (off + n) = beNat buf / 2 ^ e % 2 := by
      rw [bitAt_eq_testBit (e := e) (by omega), Nat.toNat_testBit]
    rw [ext, hbits, hlast, Nat.pow_succ', Nat.mod_mul, Nat.add_comm]

/-! ## A field of a buffer slice -/

/-- A bit of a slice is a bit of the buffer byte it lies in. -/
theorem bitAt_bufSlice {s : State} {b : Source} {i m k : Nat} (h : k < 8 * m) :
    bitAt (bufSlice s b i m) k = ((bufByte s b (i + k / 8)).getLsbD (7 - k % 8)).toNat := by
  have hk : k / 8 < m := by omega
  simp [bitAt, bufSlice, hk]

/-- A field that lies in the bytes `j .. j+k` of a slice is that field of the smaller slice. -/
theorem ext_bufSlice_inner {s : State} {b : Source} {i j k m off n : Nat} (hfield : off + n ≤ 8 * k)
    (hslice : j + k ≤ m) : ext (bufSlice s b i m) (8 * j + off) n = ext (bufSlice s b (i + j) k) off n := by
  induction n with
  | zero => rfl
  | succ n ih =>
    have hbyte : (8 * j + off + n) / 8 = j + (off + n) / 8 := by omega
    have hbit : (8 * j + off + n) % 8 = (off + n) % 8 := by omega
    rw [ext, ext, ih (by omega), bitAt_bufSlice (by omega), bitAt_bufSlice (by omega), hbyte, hbit,
      Nat.add_assoc]

/-- A field of the bytes `j .. j+k` of a slice, by the big-endian value of those bytes. -/
theorem ext_bufSlice {s : State} {b : Source} {i j k m off n e : Nat} (hfield : off + n + e = 8 * k)
    (hslice : j + k ≤ m) :
    ext (bufSlice s b i m) (8 * j + off) n = beNat (bufSlice s b (i + j) k) / 2 ^ e % 2 ^ n := by
  rw [ext_bufSlice_inner (by omega) hslice, ext_eq_beNat_div (by rw [length_bufSlice]; exact hfield)]

/-! ## A register packed from fields -/

/-- A number that fits a register is what the register holds. -/
theorem toNat_ofNat_of_lt {w v : Nat} (h : v < 2 ^ w) : (BitVec.ofNat w v).toNat = v := by
  rw [BitVec.toNat_ofNat, Nat.mod_eq_of_lt h]

/-- A field alone in a register (R143, R146). -/
theorem toNat_regField {v sh : Nat} (h : v * 2 ^ sh < 2 ^ 32) : (regField v sh).toNat = v * 2 ^ sh := by
  rw [regField, BitVec.toNat_shiftLeft, BitVec.toNat_ofNat, Nat.shiftLeft_eq, Nat.mod_mul_mod,
    Nat.mod_eq_of_lt h]

/-- A field packed above the fields below it is a summand (R143, R146). -/
theorem toNat_or_regField {r : Word} {low v sh : Nat} (hr : r.toNat = low) (hlow : low < 2 ^ sh)
    (h : v * 2 ^ sh < 2 ^ 32) : (r ||| regField v sh).toNat = low + v * 2 ^ sh := by
  rw [BitVec.toNat_or, toNat_regField h, hr, Nat.mul_comm, Nat.or_comm, ← Nat.two_pow_add_eq_or_of_lt hlow,
    Nat.add_comm]

/-- The CRC width selector read from a code has that code (R81). -/
theorem crcCode_crcOfCode (c : BitVec 2) : crcCode (crcOfCode c) = c.toNat := by
  revert c
  decide

end Sys2Proof.Machine
end

section
/-!
The frame state machine (spec/42_frame_assembler.md): what each chunk's end decodes and decides (R143 to R149), and
what an event does in SEEK and in a chunk state (R141, R142, R152, R153).
-/

namespace Sys2Proof.Machine

/-! ## Which rule ends a chunk -/

theorem chunkEnd_of_fs {s : State} (h : s.eng.fsm = .fs) : chunkEnd s = chunkEndFs s := by
  simp [chunkEnd, h]

theorem chunkEnd_of_pd {s : State} (h : s.eng.fsm = .pd) : chunkEnd s = chunkEndPd s := by
  simp [chunkEnd, h]

theorem chunkEnd_of_pdTt {s : State} (h : s.eng.fsm = .pdTt) : chunkEnd s = enterExtension s := by
  simp [chunkEnd, chunkEndPdTt, h]

theorem chunkEnd_of_pdEa {s : State} (h : s.eng.fsm = .pdEa) : chunkEnd s = pdDone s := by
  simp [chunkEnd, h]

theorem chunkEnd_of_payload {s : State} (h : s.eng.fsm = .payload) : chunkEnd s = payloadDone s := by
  simp [chunkEnd, h]

theorem chunkEnd_of_auth {s : State} (h : s.eng.fsm = .auth) :
    chunkEnd s = enterChunk .crc (crcBytes s.eng.fCt) s := by simp [chunkEnd, h]

theorem chunkEnd_of_crc {s : State} (h : s.eng.fsm = .crc) : chunkEnd s = chunkEndCrc s := by
  simp [chunkEnd, h]

/-! ## The frame start (R143) -/

/-- HDR_FS is the sum of its fields (R32, R143). -/
theorem toNat_hdrFs {mt eaf pl ct fc : Nat} (hmt : mt < 2 ^ 7) (heaf : eaf < 2) (hpl : pl < 2 ^ 10)
    (hct : ct < 4) (hfc : fc < 16) :
    (regField mt 0 ||| regField eaf 7 ||| regField pl 8 ||| regField ct 20 ||| regField fc 24).toNat =
      mt + eaf * 2 ^ 7 + pl * 2 ^ 8 + ct * 2 ^ 20 + fc * 2 ^ 24 := by
  have toEaf := toNat_or_regField (toNat_regField (v := mt) (sh := 0) (by omega)) (v := eaf) (sh := 7)
    (by omega) (by omega)
  have toPl := toNat_or_regField toEaf (v := pl) (sh := 8) (by omega) (by omega)
  have toCt := toNat_or_regField toPl (v := ct) (sh := 20) (by omega) (by omega)
  have toFc := toNat_or_regField toCt (v := fc) (sh := 24) (by omega) (by omega)
  simpa using toFc

/-- Settles O21: each field of the three bytes is a quotient and a remainder of their value. -/
theorem frameStartDecoded : Obligations.FrameStartDecoded := by
  intro s hfs v t
  have ht : t = enterChunk .pd 4 (decodeFs s) := chunkEnd_of_fs hfs
  have hv : v < 2 ^ 24 := by simpa using beNat_lt (bufSlice s .fbuf 1 3)
  have field {off n e : Nat} (h : off + n + e = 24) : ext (bufSlice s .fbuf 1 3) off n = v / 2 ^ e % 2 ^ n :=
    ext_eq_beNat_div (by rw [length_bufSlice]; exact h)
  have hmt : ext (bufSlice s .fbuf 1 3) 0 7 = v / 2 ^ 17 := by rw [field (e := 17) rfl]; omega
  have hpl : ext (bufSlice s .fbuf 1 3) 7 10 = v / 2 ^ 7 % 2 ^ 10 := field rfl
  have heaf : ext (bufSlice s .fbuf 1 3) 17 1 = v / 2 ^ 6 % 2 := field rfl
  have hct : ext (bufSlice s .fbuf 1 3) 18 2 = v / 2 ^ 4 % 4 := field rfl
  have hfc : ext (bufSlice s .fbuf 1 3) 20 4 = v % 16 := by rw [field (e := 0) rfl]; omega
  rw [ht]
  refine ⟨?_, ?_, ?_, ?_, rfl⟩
  · simp [decodeFs, hpl]
  · simp [decodeFs, heaf]
  · simp [decodeFs, hct, crcCode_crcOfCode]
  · simp only [enterChunk_regs, decodeFs, hmt, hpl, heaf, hct, hfc]
    exact toNat_hdrFs (by omega) (by omega) (by omega) (by omega) (by omega)

/-! ## The payload descriptor (R144 to R146) -/

/-- TTT is bit 3 of the descriptor's first byte (R91, R144). -/
theorem ext_ttt (s : State) : ext (bufSlice s .fbuf 4 4) 4 1 = (bufByte s .fbuf 4).toNat / 2 ^ 3 % 2 := by
  have h := ext_bufSlice (s := s) (b := .fbuf) (i := 4) (j := 0) (k := 1) (m := 4) (off := 4) (n := 1)
    (e := 3) rfl (by omega)
  simpa [bufSlice, beNat] using h

/-- The encryption extension follows when EAF asks for it (R144, R145). -/
theorem enterExtension_of_eaf {s : State} (h : s.eng.fEaf = true) :
    enterExtension s = enterChunk .pdEa 2 s := by simp [enterExtension, h]

theorem enterExtension_of_not_eaf {s : State} (h : s.eng.fEaf = false) : enterExtension s = pdDone s := by
  simp [enterExtension, h]

/-- Settles O22: the time-tag bit by its byte, then the two branches in their order. -/
theorem descriptorExtensionsInOrder : Obligations.DescriptorExtensionsInOrder := by
  constructor
  · intro s hpd t
    have ht : latchTtt s = t := by simp only [latchTtt, ext_ttt, t]
    rw [chunkEnd_of_pd hpd, chunkEndPd, ht]
    refine ⟨fun httt => ?_, fun httt heaf => ?_, fun httt heaf => ?_⟩
    · rw [if_pos httt, enterChunk]
    · rw [httt, if_neg Bool.false_ne_true, enterExtension_of_eaf (s := t) heaf, enterChunk]
    · rw [httt, if_neg Bool.false_ne_true, enterExtension_of_not_eaf (s := t) heaf]
  · intro s htt
    rw [chunkEnd_of_pdTt htt]
    exact ⟨enterExtension_of_eaf, enterExtension_of_not_eaf⟩

section descriptor

variable {s : State} (hpos : s.eng.pos = 8 + 2 * s.eng.fTtt.toNat + 2 * s.eng.fEaf.toNat)

include hpos

/-- A field of the descriptor base, by the base's value (R91). -/
theorem ext_descriptorBase {off n e : Nat} (h : off + n + e = 8 * (4 + 2 * s.eng.fTtt.toNat)) :
    ext (bufSlice s .fbuf 4 (s.eng.pos - 4)) off n =
      beNat (bufSlice s .fbuf 4 (4 + 2 * s.eng.fTtt.toNat)) / 2 ^ e % 2 ^ n := by
  simpa using ext_bufSlice (s := s) (b := .fbuf) (i := 4) (j := 0) (m := s.eng.pos - 4) h (by omega)

/-- A field of the encryption extension, by the extension's value (R92). -/
theorem ext_descriptorExtension (heaf : s.eng.fEaf = true) {off n e : Nat} (h : off + n + e = 16) :
    ext (bufSlice s .fbuf 4 (s.eng.pos - 4)) (32 + 16 * s.eng.fTtt.toNat + off) n =
      beNat (bufSlice s .fbuf (8 + 2 * s.eng.fTtt.toNat) 2) / 2 ^ e % 2 ^ n := by
  have hoff : 32 + 16 * s.eng.fTtt.toNat + off = 8 * (4 + 2 * s.eng.fTtt.toNat) + off := by ring
  have hslice : 8 + 2 * s.eng.fTtt.toNat = 4 + (4 + 2 * s.eng.fTtt.toNat) := by ring
  rw [heaf, Bool.toNat_true] at hpos
  rw [hoff, hslice]
  exact ext_bufSlice h (by omega)

end descriptor

/-- HDR_PD is the sum of its fields (R33, R146). -/
theorem toNat_hdrPd {st ttt sid spid : Nat} (hst : st < 2 ^ 4) (httt : ttt < 2) (hsid : sid < 2 ^ 7)
    (hspid : spid < 2 ^ 4) :
    (regField st 0 ||| regField ttt 4 ||| regField sid 8 ||| regField spid 16).toNat =
      st + ttt * 2 ^ 4 + sid * 2 ^ 8 + spid * 2 ^ 16 := by
  have toTtt := toNat_or_regField (toNat_regField (v := st) (sh := 0) (by omega)) (v := ttt) (sh := 4)
    (by omega) (by omega)
  have toSid := toNat_or_regField toTtt (v := sid) (sh := 8) (by omega) (by omega)
  have toSpid := toNat_or_regField toSid (v := spid) (sh := 16) (by omega) (by omega)
  simpa using toSpid

/-- HDR_EA of a frame with the extension is the sum of its fields and of EAF at bit 16 (R35, R146). -/
theorem toNat_hdrEa {eid seq ai ealc : Nat} (heid : eid < 2 ^ 4) (hseq : seq < 2 ^ 6) (hai : ai < 8)
    (healc : ealc < 8) :
    (regField eid 0 ||| regField seq 4 ||| regField ai 10 ||| regField ealc 13 ||| regField 1 16).toNat =
      eid + seq * 2 ^ 4 + ai * 2 ^ 10 + ealc * 2 ^ 13 + 2 ^ 16 := by
  have toSeq := toNat_or_regField (toNat_regField (v := eid) (sh := 0) (by omega)) (v := seq) (sh := 4)
    (by omega) (by omega)
  have toAi := toNat_or_regField toSeq (v := ai) (sh := 10) (by omega) (by omega)
  have toEalc := toNat_or_regField toAi (v := ealc) (sh := 13) (by omega) (by omega)
  have toEaf := toNat_or_regField toEalc (v := 1) (sh := 16) (by omega) (by omega)
  simpa using toEaf

section decodePd

variable {s : State} (hpos : s.eng.pos = 8 + 2 * s.eng.fTtt.toNat + 2 * s.eng.fEaf.toNat)

include hpos

/-- HDR_PD by the descriptor base's value (R91, R146). -/
theorem decodePd_hdrPd :
    let t := s.eng.fTtt.toNat
    let v := beNat (bufSlice s .fbuf 4 (4 + 2 * t))
    (decodePd s).regs.hdrPd.toNat =
      v / 2 ^ (28 + 16 * t) + t * 2 ^ 4 + (v / 2 ^ 4 % 2 ^ 7) * 2 ^ 8 + (v % 2 ^ 4) * 2 ^ 16 := by
  intro t v
  have hv : v / 2 ^ (28 + 16 * t) < 2 ^ 4 := by
    refine Nat.div_lt_of_lt_mul ?_
    have h := beNat_lt (bufSlice s .fbuf 4 (4 + 2 * t))
    rwa [length_bufSlice, show 8 * (4 + 2 * t) = 28 + 16 * t + 4 by ring, Nat.pow_add] at h
  have hst := ext_descriptorBase hpos (off := 0) (n := 4) (e := 28 + 16 * t) (by omega)
  have hsid := ext_descriptorBase hpos (off := 21 + 16 * t) (n := 7) (e := 4) (by omega)
  have hspid := ext_descriptorBase hpos (off := 28 + 16 * t) (n := 4) (e := 0) (by omega)
  rw [Nat.mod_eq_of_lt hv] at hst
  rw [Nat.pow_zero, Nat.div_one] at hspid
  simp only [decodePd]
  rw [hst, hsid, hspid]
  exact toNat_hdrPd hv (Bool.toNat_lt _) (Nat.mod_lt _ (by decide)) (Nat.mod_lt _ (by decide))

/-- HDR_TT by the descriptor base's value: the time tag is the 16 or 32 bits before the last 11 (R91, R146). -/
theorem decodePd_hdrTt :
    (decodePd s).regs.hdrTt.toNat =
      beNat (bufSlice s .fbuf 4 (4 + 2 * s.eng.fTtt.toNat)) / 2 ^ 11 % 2 ^ (16 + 16 * s.eng.fTtt.toNat) := by
  have htag := ext_descriptorBase hpos (off := 5) (n := 16 + 16 * s.eng.fTtt.toNat) (e := 11) (by omega)
  have hwidth : 16 + 16 * s.eng.fTtt.toNat ≤ 32 := by have := Bool.toNat_lt s.eng.fTtt; omega
  have hfits : ext (bufSlice s .fbuf 4 (s.eng.pos - 4)) 5 (16 + 16 * s.eng.fTtt.toNat) < 2 ^ 32 :=
    (ext_lt _ _ _).trans_le (Nat.pow_le_pow_right (by decide) hwidth)
  rw [← htag]
  exact toNat_ofNat_of_lt hfits

/-- The extension's latches and HDR_EA by the extension's value (R92, R146). -/
theorem decodePd_extension (heaf : s.eng.fEaf = true) :
    let x := beNat (bufSlice s .fbuf (8 + 2 * s.eng.fTtt.toNat) 2)
    (decodePd s).eng.fAi.toNat = x / 2 ^ 3 % 8 ∧ (decodePd s).eng.fEalc.toNat = x % 8
      ∧ (decodePd s).regs.hdrEa.toNat =
          x / 2 ^ 12 + (x / 2 ^ 6 % 2 ^ 6) * 2 ^ 4 + (x / 2 ^ 3 % 8) * 2 ^ 10 + (x % 8) * 2 ^ 13 + 2 ^ 16 := by
  intro x
  have hx : x < 2 ^ 16 := by simpa using beNat_lt (bufSlice s .fbuf (8 + 2 * s.eng.fTtt.toNat) 2)
  have heid : ext (bufSlice s .fbuf 4 (s.eng.pos - 4)) (32 + 16 * s.eng.fTtt.toNat) 4 = x / 2 ^ 12 := by
    have h := ext_descriptorExtension hpos heaf (off := 0) (n := 4) (e := 12) rfl
    rw [Nat.add_zero] at h
    omega
  have hseq := ext_descriptorExtension hpos heaf (off := 4) (n := 6) (e := 6) rfl
  have hai := ext_descriptorExtension hpos heaf (off := 10) (n := 3) (e := 3) rfl
  have healc := ext_descriptorExtension hpos heaf (off := 13) (n := 3) (e := 0) rfl
  rw [Nat.pow_zero, Nat.div_one] at healc
  simp only [decodePd, if_pos heaf, heid, hseq, hai, healc]
  refine ⟨?_, ?_, ?_⟩
  · exact toNat_ofNat_of_lt (Nat.mod_lt _ (by decide))
  · exact toNat_ofNat_of_lt (Nat.mod_lt _ (by decide))
  · exact toNat_hdrEa (by omega) (by omega) (by omega) (by omega)

end decodePd

/-- Settles O23: the fields of the base and of the extension by their values; what follows is the zero-length
rule. -/
theorem payloadDescriptorDecoded : Obligations.PayloadDescriptorDecoded := by
  refine ⟨fun s => chunkEnd_of_pdEa, fun s hpos => ?_⟩
  refine ⟨decodePd_hdrPd hpos, decodePd_hdrTt hpos, ?_, decodePd_extension hpos, fun heaf => ?_, rfl, rfl⟩
  · refine toNat_ofNat_of_lt ?_
    have httt := Bool.toNat_lt s.eng.fTtt
    have heaf := Bool.toNat_lt s.eng.fEaf
    omega
  · simp [decodePd, heaf]

/-! ## The embedded-auth decision (R147, R148) -/

/-- A length code in use that the table does not map, as a proposition (R147, R157). -/
theorem ealUnmapped_iff (eaf : Bool) (ai ealc : BitVec 3) :
    ealUnmapped eaf ai ealc = true ↔ eaf = true ∧ 1 < ai.toNat ∧ 5 ≤ ealc.toNat := by
  simp only [ealUnmapped, Bool.and_eq_true, decide_eq_true_eq, and_assoc]

/-- What follows the payload, as one update: the auth chunk, or the trailer when there is no auth byte (R147). -/
theorem enterAuth_eq (s : State) :
    enterAuth s =
      let n := authLen s.eng.fEaf s.eng.fAi s.eng.fEalc
      enterChunk (if 0 < n then .auth else .crc) (if 0 < n then n else crcBytes s.eng.fCt) (setAuth n s) := by
  by_cases h : 0 < authLen s.eng.fEaf s.eng.fAi s.eng.fEalc <;> simp [enterAuth, h]

/-- Settles O25: the three cases of `payload_done()` are the branches of the model's decision. -/
theorem authDecision : Obligations.AuthDecision := by
  refine ⟨fun s => chunkEnd_of_payload, ?_, fun s => chunkEnd_of_auth⟩
  intro s unmapped n cnt go
  have hiff : ealUnmapped s.eng.fEaf s.eng.fAi s.eng.fEalc = true ↔ unmapped := ealUnmapped_iff ..
  refine ⟨fun hmapped => ?_, fun hun hlax => ?_, fun hun hstrict => ?_⟩
  · rw [payloadDone, if_neg (mt hiff.mp hmapped), enterAuth_eq]
    rfl
  · rw [payloadDone, if_pos (hiff.mpr hun), hlax, if_neg Bool.false_ne_true, enterAuth_eq]
    rfl
  · rw [payloadDone, if_pos (hiff.mpr hun), if_pos hstrict]
    rfl

/-! ## The trailer (R149, R150) -/

/-- The frame is delivered when nothing is checked or the CRC matches (R149). -/
theorem chunkEndCrc_of_delivered {s : State} (h : s.ctrl.crcEn = true → coreCrc s = receivedCrc s) :
    chunkEndCrc s = deliver (recordCrc s) :=
  if_neg fun hbad => hbad.2 (h hbad.1)

/-- A mismatch of a checked CRC is `crc_error()` (R149, R150). -/
theorem chunkEndCrc_of_mismatch {s : State} (hen : s.ctrl.crcEn = true) (hne : coreCrc s ≠ receivedCrc s) :
    chunkEndCrc s = crcError (recordCrc s) :=
  if_pos ⟨hen, hne⟩

/-- Settles O26: each clause is one case of CRC_EN and of the compare. -/
theorem trailerChecked : Obligations.TrailerChecked := by
  intro s hcrc k rx c delivered
  have hrx : receivedCrc s = rx := rfl
  have hcore : coreCrc s = c := rfl
  rw [chunkEnd_of_crc hcrc]
  refine ⟨fun hoff => ?_, fun hen heq => ?_, fun hen hne => ?_⟩
  · rw [chunkEndCrc_of_delivered (by simp [hoff])]
    simp [deliver, complete_cases, delivered, recordCrc, hrx, hoff]
  · rw [chunkEndCrc_of_delivered (fun _ => heq)]
    simp [deliver, complete_cases, delivered, recordCrc, hrx, hcore, hen, heq]
  · rw [chunkEndCrc_of_mismatch hen hne]
    simp [crcError, recordCrc, hrx, hcore, hen, hne]

/-! ## Taking an event (R141, R142, R152, R153) -/

/-- A frame attempt starts with its preamble at FBUF[0] and writes no other byte (R141). -/
theorem byteAt_startAttempt (b : Byte) (s : State) (a : Nat) :
    byteAt (startAttempt b s) a = if 0x1000 = a then b else byteAt s a :=
  (byteAt_congr (s := bufStore s .fbuf 0 b) rfl rfl a).trans (byteAt_bufStore ..)

/-- A chunk state stores its byte at FBUF[pos] and writes no other byte (R142). -/
theorem byteAt_takeChunkByte (b : Byte) (s : State) (a : Nat) :
    byteAt (takeChunkByte b s) a = if 0x1000 + s.eng.pos = a then b else byteAt s a :=
  (byteAt_congr (s := bufStore s .fbuf s.eng.pos b) rfl rfl a).trans (byteAt_bufStore ..)

/-- The engine takes an offered byte in SEEK (R141). -/
theorem engineStep_byte_of_seek {s : State} {b : Byte} {rest : List SrcEvent} (h : s.eng.fsm = .seek)
    (hsrc : s.out.src = .byte b :: rest) :
    engineStep s = .next (seekByte b { s with out := { s.out with src := rest } }) := by
  rw [engineStep_of_offered (by simp [h, Fsm.reading]) hsrc]
  simp [takeEvent, h]

/-- Settles O19: the two branches of SEEK's byte. -/
theorem seekTakesByte : Obligations.SeekTakesByte := by
  intro s b rest hseek hsrc
  rw [engineStep_byte_of_seek hseek hsrc]
  constructor
  · intro hpre
    rw [seekByte, if_pos hpre]
    refine ⟨_, rfl, rfl, ?_, fun a ha => ?_, rfl, rfl, rfl, rfl⟩
    · exact (byteAt_startAttempt ..).trans (if_pos rfl)
    · rw [byteAt_startAttempt, if_neg ha.symm]
      exact byteAt_congr rfl rfl a
  · intro hother d
    rw [seekByte, if_neg hother]
    rfl

/-- The engine takes an offered byte in a chunk state, and the chunk ends with the last byte needed (R142). -/
theorem engineStep_byte_of_inFrame {s : State} {b : Byte} {rest : List SrcEvent}
    (h : s.eng.fsm.inFrame = true) (hneed : 1 ≤ s.eng.need) (hpos : s.eng.pos < Config.fbufSize)
    (hsrc : s.out.src = .byte b :: rest) :
    let t := takeChunkByte b { s with out := { s.out with src := rest } }
    engineStep s = .next (if s.eng.need = 1 then chunkEnd t else t) := by
  intro t
  have hseek : s.eng.fsm ≠ .seek := by intro hf; simp [hf, Fsm.inFrame] at h
  have hlast : t.eng.need = 0 ↔ s.eng.need = 1 := by simp only [t, takeChunkByte_eng]; omega
  rw [engineStep_of_offered (reading_of_inFrame h) hsrc]
  simp only [takeEvent, if_neg hseek, chunkByte]
  rw [if_neg (by omega)]
  simp only [← hlast]
  rfl

/-- Settles O20: the byte taken, and the store at FBUF[pos] read back. -/
theorem chunkTakesByte : Obligations.ChunkTakesByte := by
  intro s b rest hframe hneed hpos hsrc
  have hfits : s.eng.pos < Config.fbufSize := hpos.trans_lt (by decide)
  refine ⟨_, engineStep_byte_of_inFrame hframe hneed hfits hsrc, rfl, ?_, fun a ha => ?_, rfl, rfl, rfl, rfl⟩
  · exact (byteAt_takeChunkByte ..).trans (if_pos rfl)
  · rw [byteAt_takeChunkByte, if_neg ha.symm]
    exact byteAt_congr rfl rfl a

/-- The engine takes an offered Eos or Err in a reading state (R152, R153). -/
theorem engineStep_end {s : State} {e : SrcEvent} {rest : List SrcEvent} (h : s.eng.fsm.reading = true)
    (hsrc : s.out.src = e :: rest) (he : e = .eos ∨ e = .err) :
    engineStep s = .next (endStream (decide (e = .eos)) { s with out := { s.out with src := rest } }) := by
  rw [engineStep_of_offered h hsrc]
  obtain rfl | rfl := he <;> rfl

/-- Settles O27: in a frame attempt both ends are a stream error with the partial length. -/
theorem streamEndsInsideFrame : Obligations.StreamEndsInsideFrame := by
  intro s e rest hframe hsrc he
  have hseek : s.eng.fsm ≠ .seek := by intro hf; simp [hf, Fsm.inFrame] at hframe
  rw [engineStep_end (reading_of_inFrame hframe) hsrc he, endStream, if_neg hseek]
  obtain rfl | rfl := he <;> rfl

/-- Settles O28: in SEEK, Eos is the clean end and Err a stream error. -/
theorem streamEndsBetweenFrames : Obligations.StreamEndsBetweenFrames := by
  intro s rest hseek
  have hreading : s.eng.fsm.reading = true := by simp [hseek, Fsm.reading]
  constructor
  · intro hsrc
    rw [engineStep_end hreading hsrc (.inl rfl), endStream, if_pos hseek]
    rfl
  · intro hsrc
    rw [engineStep_end hreading hsrc (.inr rfl), endStream, if_pos hseek]
    rfl

end Sys2Proof.Machine
end

section
/-!
Completion and the control commands (spec/43_reader_control.md): what `complete` writes (R181), and what NOP (R182),
READ_NEXT (R183) and ABORT (R186) do from each kind of engine state.
-/

namespace Sys2Proof.Machine

/-! ## Completion (R181) -/

/-- LAST_ERR as the sum of its fields (R41, R216). -/
theorem toNat_lastErrWord (c : ErrCode) (fatal raised : Bool) :
    (lastErrWord c fatal raised).toNat = errNumber c + 16 * fatal.toNat + 32 * raised.toNat := by
  cases c <;> cases fatal <;> cases raised <;> decide

/-- An idle engine with `fsm` set to IDLE is the same engine. -/
theorem engine_with_idle {e : Engine} (h : e.fsm = .idle) : { e with fsm := .idle } = e := by
  rw [← h]

/-- A completed command leaves DONE = 1, so the interrupt line is CTRL.IE (R181, R214). -/
@[simp] theorem irq_complete (o : CmdOutcome) (c : ErrCode) (s : State) : irq (complete o c s) = s.ctrl.ie := by
  simp [irq]

/-- Settles O16: the one equation of `complete`, and its LAST_ERR for each kind of outcome. -/
theorem completeWritesTogether : Obligations.CompleteWritesTogether := by
  intro s o c
  refine ⟨?_, fun herror => ?_, fun hstream => ?_, fun hnoError hnoStream => ?_, irq_complete o c s⟩
  · rw [complete_cases]
  · simp [herror, toNat_lastErrWord]
  · simp [hstream, toNat_lastErrWord]
  · simp [hnoError, hnoStream]

/-! ## NOP (R182) -/

/-- NOP while idle completes in its start step (R182). -/
theorem exec_nop_of_idle {s : State} (h : s.eng.fsm = .idle) (b : Source) (c : CrcSel) :
    exec (.nop b c) s = .next (complete .ok .none (beginCommand 0#4 s)) := by
  simp [exec, execNop, busy_of_idle h]

/-- Settles O6: the completion of R181 in the start step, in an engine that is idle already. -/
theorem nopCompletesAtOnce : Obligations.NopCompletesAtOnce := by
  refine ⟨by decide, fun s b c hidle => ?_⟩
  rw [exec_nop_of_idle hidle]
  constructor
  · rintro t ⟨⟩
    exact irq_complete ..
  · simp [complete_cases, beginCommand, engine_with_idle hidle]

/-! ## ABORT (R186) -/

/-- An engine that is not in EXEC is idle or reading (R180). -/
theorem idle_or_reading {f : Fsm} (h : f ≠ .exec) : f = .idle ∨ f.reading = true := by
  cases f <;> simp_all [Fsm.reading]

/-- The end of the stream leaves the engine idle with `eos` set (R152, R153). -/
@[simp] theorem endStream_eng (eof : Bool) (s : State) :
    (endStream eof s).eng = { s.eng with eos := true, fsm := .idle } := by
  by_cases hseek : s.eng.fsm = .seek
  · cases eof <;> simp [endStream, hseek]
  · simp [endStream, hseek]

/-- ABORT while idle ends the stream and completes with OK (R186). -/
theorem exec_abort_of_idle {s : State} (h : s.eng.fsm = .idle) (b : Source) (c : CrcSel) :
    exec (.abort b c) s = .next (complete .ok .none (latchEos (beginCommand 5#4 s))) := by
  simp [exec, execAbort, busy, h, Fsm.reading]

/-- ABORT while a READ_NEXT is reading is an Eos in the current state (R186). -/
theorem exec_abort_of_reading {s : State} (h : s.eng.fsm.reading = true) (b : Source) (c : CrcSel) :
    exec (.abort b c) s = .next (endStream true s) := by
  simp [exec, execAbort, h]

/-- ABORT while an EXEC command runs is refused (R186). -/
theorem exec_abort_of_exec {s : State} (h : s.eng.fsm = .exec) (b : Source) (c : CrcSel) :
    exec (.abort b c) s = .next (setOvr s) := by
  simp [exec, execAbort, busy, h, Fsm.reading]

/-- An ABORT that is not refused leaves the engine idle and the stream ended (R186). -/
theorem exec_abort_ends_stream {s t : State} {b : Source} {c : CrcSel} (h : s.eng.fsm ≠ .exec)
    (hexec : exec (.abort b c) s = .next t) : t.eng.fsm = .idle ∧ t.eng.eos = true := by
  obtain hidle | hreading := idle_or_reading h
  · rw [exec_abort_of_idle hidle] at hexec
    cases hexec
    simp
  · rw [exec_abort_of_reading hreading] at hexec
    cases hexec
    simp

/-- READ_NEXT after the end of the stream completes at once with END_OF_STREAM (R183). -/
theorem exec_readNext_of_ended {s : State} (hidle : s.eng.fsm = .idle) (heos : s.eng.eos = true) (b : Source)
    (c : CrcSel) :
    exec (.readNext b c) s = .next (complete .endOfStream .none (clearFrameFlags (beginCommand 1#4 s))) := by
  simp [exec, execReadNext, startRead, busy_of_idle hidle, heos]

/-- Settles O12: ABORT by the engine's state; unless refused it ends the stream, so READ_NEXT finds it ended. -/
theorem abortEffect : Obligations.AbortEffect := by
  refine ⟨by decide, fun s b c => ⟨fun hidle => ?_, fun hseek => ?_, fun hframe => ?_, fun hexec => ?_,
    fun t hne ht => ?_⟩⟩
  · rw [exec_abort_of_idle hidle]
    simp [complete_cases, latchEos, beginCommand, hidle]
  · rw [exec_abort_of_reading (by simp [hseek, Fsm.reading]), endStream, if_pos hseek]
    rfl
  · have hseek : s.eng.fsm ≠ .seek := by intro hf; simp [hf, Fsm.inFrame] at hframe
    rw [exec_abort_of_reading (reading_of_inFrame hframe), endStream, if_neg hseek]
    rfl
  · exact exec_abort_of_exec hexec b c
  · obtain ⟨hidle, heos⟩ := exec_abort_ends_stream hne ht
    exact ⟨_, exec_readNext_of_ended hidle heos b c, rfl, rfl, rfl, rfl⟩

end Sys2Proof.Machine
end

section
/-!
Errors and the interrupt line (spec/60_exceptions.md): what `log_error` and its callers write (R216), and what
raises, lowers and leaves `irq` (R214).
-/

namespace Sys2Proof.Machine

/-! ## The error log (R216) -/

/-- A logged error writes LAST_ERR as the sum of its fields (R41, R216). -/
theorem toNat_logError_lastErr (c : ErrCode) (f r : Bool) (s : State) :
    (logError c f r s).regs.lastErr.toNat = errNumber c + 16 * f.toNat + 32 * r.toNat :=
  toNat_lastErrWord c f r

/-- A logged error counts in LOG_CNT, modulo 2^32, only when it was not raised (R40, R216). -/
theorem toNat_logError_logCnt (c : ErrCode) (f r : Bool) (s : State) :
    (logError c f r s).regs.logCnt.toNat =
      if r then s.regs.logCnt.toNat else (s.regs.logCnt.toNat + 1) % 2 ^ 32 := by
  cases r with
  | true => rfl
  | false => exact BitVec.toNat_add ..

/-- Unless the policy is RAISE, a recoverable error goes back to SEEK (R185). -/
theorem recoverable_of_not_raise {s : State} (h : s.ctrl.policy ≠ .raise) (c : ErrCode) :
    recoverable c s = backToSeek c s := by
  obtain ⟨hraise, -⟩ | ⟨-, hseek⟩ := recoverable_cases c s
  · exact absurd hraise h
  · exact hseek

/-- Settles O17: the two registers of `log_error`, and the same two in what its callers leave. -/
theorem errorLogEntries : Obligations.ErrorLogEntries := by
  intro s c f r
  refine ⟨rfl, toNat_logError_lastErr c f r s, toNat_logError_logCnt c f r s, ?_, ?_, fun hlog => ?_,
    fun hignore => ?_⟩
  · simp
  · simp
  · rw [recoverable_of_not_raise (by simp [hlog])]
    simp [backToSeek, hlog]
  · rw [recoverable_of_not_raise (by simp [hignore])]
    simp [backToSeek, hignore]

/-! ## The interrupt line (R214) -/

/-- A number placed at bit `k` of a register shows its own bits from bit `k` up. -/
theorem getElem_atBit (v k : Nat) {i : Nat} (hi : i < 32) :
    (atBit v k)[i] = (decide (k ≤ i) && v.testBit (i - k)) := by
  have hbit : i - k < 32 := by omega
  by_cases hk : k ≤ i
  · simp [atBit, ← BitVec.getLsbD_eq_getElem, BitVec.getLsbD_ofNat, hi, hbit, hk, Nat.not_lt.mpr hk]
  · simp [atBit, hk, Nat.lt_of_not_le hk]

/-- CTRL.IE is bit 5 of CTRL (R22). -/
theorem getLsbD_ctrlWord_ie (c : Ctrl) : (ctrlWord c).getLsbD 5 = c.ie := by
  have hpolicy : (policyCode c.policy).testBit 4 = false := by cases c.policy <;> rfl
  simp [ctrlWord, getElem_atBit, -Nat.testBit_zero, Nat.testBit_bool_toNat, hpolicy]

/-- STATUS.DONE is bit 1 of STATUS (R24). -/
theorem getLsbD_statusWord_done (s : State) : (statusWord s).getLsbD 1 = s.status.done := by
  simp [statusWord, getElem_atBit, -Nat.testBit_zero, Nat.testBit_bool_toNat]

/-- The interrupt line is IE and DONE as the host reads them (R214). -/
theorem irq_eq_read_bits (s : State) :
    irq s = ((regValue s .ctrl).getLsbD 5 && (regValue s .status).getLsbD 1) := by
  rw [regValue, regValue, getLsbD_ctrlWord_ie, getLsbD_statusWord_done, irq]

/-- Without DONE there is no interrupt (R214). -/
theorem irq_of_not_done {s : State} (h : s.status.done = false) : irq s = false := by
  simp [irq, h]

/-- A four-byte write at a register's offset is a write of that register (R61). -/
theorem busWrite_reg {off : BitVec 14} {r : Reg} (h : off.toNat = regOffset r) (v : Word) (s : State) :
    busWrite off 4 v s = regWrite r v s := by
  simp [busWrite, accessTarget_reg h]

/-- A write of 1 to STATUS.DONE clears it (R24). -/
theorem statusW1c_done_of_one {v : Word} (hone : v.toNat / 2 % 2 = 1) (t : Status) :
    (statusW1c t v).done = false := by
  have hbit : v.getLsbD 1 = true := by
    simp [BitVec.getLsbD, Nat.testBit_eq_decide_div_mod_eq, hone]
  simp [statusW1c, hbit]

/-- READ_NEXT while idle, before the end of the stream, starts reading (R183). -/
theorem exec_readNext_of_not_ended {s : State} (hidle : s.eng.fsm = .idle) (heos : s.eng.eos = false) (b : Source)
    (c : CrcSel) :
    exec (.readNext b c) s = .next (enterSeek (clearFrameFlags (beginCommand 1#4 s))) := by
  simp [exec, execReadNext, startRead, busy_of_idle hidle, heos]

/-- A command written while idle completes in its start step, or has cleared DONE and runs (R180, R181). -/
theorem exec_of_idle_completes_or_clears_done (i : Instr) {s : State} (hidle : s.eng.fsm = .idle) :
    ∃ t, exec i s = .next t ∧ (t.eng.fsm = .idle ∨ t.status.done = false) := by
  cases i with
  | nop b c => exact ⟨_, exec_nop_of_idle hidle b c, .inl (by simp)⟩
  | readNext b c =>
    cases heos : s.eng.eos with
    | true => exact ⟨_, exec_readNext_of_ended hidle heos b c, .inl (by simp)⟩
    | false => exact ⟨_, exec_readNext_of_not_ended hidle heos b c, .inr rfl⟩
  | extract b c => exact ⟨_, exec_extract_of_idle hidle b c, .inr rfl⟩
  | crcCompute b c => exact ⟨_, exec_crcCompute_of_idle hidle b c, .inr rfl⟩
  | crcValidate b c => exact ⟨_, exec_crcValidate_of_idle hidle b c, .inr rfl⟩
  | abort b c => exact ⟨_, exec_abort_of_idle hidle b c, .inl (by simp)⟩
  | softReset b c => exact ⟨softReset s, rfl, .inl rfl⟩

/-- Settles O44: `irq` from the two words read, and DONE after each of the steps that R214 names. -/
theorem interruptFollowsDone : Obligations.InterruptFollowsDone := by
  refine ⟨irq_eq_read_bits, fun s o c => irq_complete o c s, fun s t v rest hin hone hstep => ?_,
    fun i s t hidle hexec hrunning => ?_, fun s t rest hin hstep => ?_, fun s c hlog => ?_⟩
  · rw [step_of_write hin, busWrite_reg (r := .status) (by decide)] at hstep
    cases hstep
    exact irq_of_not_done (statusW1c_done_of_one hone _)
  · obtain ⟨u, hu, hdone⟩ := exec_of_idle_completes_or_clears_done i hidle
    rw [hu] at hexec
    cases hexec
    exact irq_of_not_done (hdone.resolve_left hrunning)
  · rw [step_of_rst hin] at hstep
    cases hstep
    rfl
  · rw [recoverable_of_not_raise (by simp [hlog])]
    rfl

end Sys2Proof.Machine
end

section
/-!
The invariant of the machine (spec/10_state.md section 8, spec/42_frame_assembler.md sections 2 and 3): every step
of every agent keeps `Inv`, and from `Inv` no step faults.
-/

namespace Sys2Proof.Machine

/-! ## The parts of `Inv` under an update -/

/-- `Base` keeps to the memory, STATUS and the frame's length; ranges and reserved bits are asked for anew. -/
theorem Base.congr {s t : State} (h : Base s) (hmem : t.mem = s.mem) (hstatus : t.status = s.status)
    (hlen : t.regs.frameLen = s.regs.frameLen) (hrng : RangesOk t) (hres : ReservedZero t.regs) : Base t where
  wf := hmem ▸ h.wf
  rng := hrng
  res := hres
  crc := hstatus ▸ h.crc
  fv := by rw [hstatus, hlen]; exact h.fv
  written := by rw [hlen, hmem]; exact h.written
  pre := by rw [hlen, hmem]; exact h.pre

/-- A store in FBUF keeps `Base`, if the byte at index 0 stays the preamble (R43, R141). -/
theorem Base.bufStore {s : State} (h : Base s) {i : Nat} {b : Byte} (hi : i < 2048)
    (hb : i = 0 → b = Config.preamble) : Base (bufStore s .fbuf i b) where
  wf := wf_bufStore h.wf hi
  rng := h.rng
  res := h.res
  crc := h.crc
  fv := h.fv
  written j hj := isSome_memLookup_memStore (h.written j hj)
  pre hlen := by
    rw [bufStore_mem, memLookup_memStore]
    split
    case isTrue heq => rw [hb (by simpa [bufBase] using heq)]
    case isFalse => exact h.pre hlen

/-- FRAME_LEN taken from `pos` in a frame attempt keeps `Base` (R31). -/
theorem Base.recordLength {s : State} (h : Base s) (hf : InFrame s)
    (hv : s.status.frameValid = true → 9 ≤ s.eng.pos) : Base (recordLength s) := by
  obtain ⟨hneed, hpos, hfauth, -, hauth, hoff⟩ := h.rng
  have hlen : (Machine.recordLength s).regs.frameLen.toNat = s.eng.pos := toNat_ofNat_of_lt (by omega)
  refine ⟨h.wf, ⟨hneed, hpos, hfauth, by omega, hauth, hoff⟩, h.res, h.crc, ?_, ?_, fun _ => hf.pre⟩
  · rw [hlen]; exact hv
  · rw [hlen]; exact hf.written

/-- A state in EXEC has `Inv` from its parts. -/
theorem Base.inv_of_exec {s : State} (h : Base s) (hexec : s.eng.fsm = .exec) (hop : s.eng.op.isSome = true)
    (hdone : s.status.done = false) (hout : s.status.outcome = .none) (hcode : s.status.errCode = .none) :
    Inv s :=
  ⟨h.wf, by simp [ChunkOk, hexec], h.rng, h.res,
    ⟨fun _ => ⟨hdone, hout, hcode⟩, by simp [hout, hcode], h.crc, by simp [hexec, Fsm.reading],
      fun _ => hop, h.fv⟩,
    h.written, by simp [hexec, Fsm.inFrame], by simpa [hexec, Fsm.inFrame] using h.pre⟩

/-- A running READ_NEXT inside a frame: the three parts of `Inv` that no chunk's end breaks. -/
structure Attempt (s : State) : Prop where
  base : Base s
  running : Running s
  frame : InFrame s

theorem Inv.attempt {s : State} (h : Inv s) (hf : s.eng.fsm.inFrame = true) : Attempt s :=
  ⟨h.base, h.running (reading_of_inFrame hf), h.inFrame hf⟩

theorem Attempt.congr {s t : State} (h : Attempt s) (hmem : t.mem = s.mem) (hstatus : t.status = s.status)
    (hpos : t.eng.pos = s.eng.pos) (heos : t.eng.eos = s.eng.eos) (hlen : t.regs.frameLen = s.regs.frameLen)
    (hrng : RangesOk t) (hres : ReservedZero t.regs) : Attempt t where
  base := h.base.congr hmem hstatus hlen hrng hres
  running := by
    obtain ⟨eos, fv, op, done, outcome, code⟩ := h.running
    rw [← hstatus] at fv op done outcome code
    exact ⟨heos.trans eos, fv, op, done, outcome, code⟩
  frame := by
    obtain ⟨pos, written, pre⟩ := h.frame
    rw [← hmem, ← hpos] at written
    exact ⟨hpos ▸ pos, written, hmem ▸ pre⟩

/-- FRAME_LEN taken from `pos` keeps an attempt's parts (R31). -/
theorem Attempt.recordLength {s : State} (h : Attempt s) : Attempt (recordLength s) := by
  obtain ⟨eos, fv, op, done, outcome, code⟩ := h.running
  refine ⟨h.base.recordLength h.frame (by simp [fv]), ⟨eos, fv, op, done, outcome, code⟩, ?_⟩
  exact ⟨h.frame.pos, h.frame.written, h.frame.pre⟩

/-- Entering the next chunk gives `Inv` when `need` fits what the chunk's state says. -/
theorem Attempt.enterChunk {s : State} (h : Attempt s) {f : Fsm} {n : Nat} (hf : f.inFrame = true)
    (hn : n ≤ 1023) (hc : ChunkOk { s.eng with fsm := f, need := n }) : Inv (enterChunk f n s) := by
  have ht : Attempt (Machine.enterChunk f n s) := h.congr rfl rfl rfl rfl rfl ⟨hn, h.base.rng.2⟩ h.base.res
  exact ht.base.inv_of_running ht.running (reading_of_inFrame hf) (fun _ => ht.frame) hc

/-! ## Taking a byte -/

theorem fPl_le (e : Engine) : e.fPl.toNat ≤ 1023 := by have := e.fPl.isLt; omega

theorem pdEnd_bounds (e : Engine) : 8 ≤ pdEnd e ∧ pdEnd e ≤ 12 := by
  have httt := Bool.toNat_lt e.fTtt
  have heaf := Bool.toNat_lt e.fEaf
  unfold pdEnd
  omega

theorem authLen_le (eaf : Bool) (ai ealc : BitVec 3) : authLen eaf ai ealc ≤ 64 := by
  have := authLen_values eaf ai ealc
  omega

/-- In a frame attempt a byte is needed, and the chunk ends inside FBUF, at 1103 at the latest (R101, R142). -/
theorem ChunkOk.need_bounds {e : Engine} (h : ChunkOk e) (hf : e.fsm.inFrame = true) :
    1 ≤ e.need ∧ e.pos + e.need ≤ 1103 := by
  have hpd := pdEnd_bounds e
  have hpl := fPl_le e
  have hauth : authOf e ≤ 64 := authLen_le ..
  have hcrc := crcBytes_range e.fCt
  have httt := Bool.toNat_lt e.fTtt
  cases hfsm : e.fsm <;> simp [hfsm, Fsm.inFrame] at hf <;> simp [ChunkOk, hfsm] at h <;> omega

/-- The chunk's last byte has been taken: `pos` is just past the chunk, by the wire layout (R142, R96). -/
def ChunkFull (e : Engine) : Prop :=
  match e.fsm with
  | .idle | .exec | .seek => True
  | .fs => e.pos = 4
  | .pd => e.pos = 8
  | .pdTt => e.pos = 10 ∧ e.fTtt = true
  | .pdEa => e.pos = 10 + 2 * e.fTtt.toNat ∧ e.fEaf = true
  | .payload => e.pos = pdEnd e + e.fPl.toNat
  | .auth => e.fAuth = authOf e ∧ e.pos = pdEnd e + e.fPl.toNat + authOf e
  | .crc => e.fAuth = authOf e ∧ e.pos = pdEnd e + e.fPl.toNat + authOf e + crcBytes e.fCt

/-- The byte that makes `need` 0 fills the chunk (R142). -/
theorem ChunkOk.full_of_last {s : State} (h : ChunkOk s.eng) (hlast : s.eng.need = 1) (b : Byte) :
    ChunkFull (takeChunkByte b s).eng := by
  cases hfsm : s.eng.fsm <;>
    simp [ChunkOk, hfsm, hlast, authOf, pdEnd] at h <;> simp [ChunkFull, hfsm, authOf, pdEnd, h]

/-- Any other byte of a chunk leaves the chunk's count exact (R142). -/
theorem ChunkOk.takeChunkByte {s : State} (h : ChunkOk s.eng) (hf : s.eng.fsm.inFrame = true)
    (hmore : s.eng.need ≠ 1) (b : Byte) : ChunkOk (takeChunkByte b s).eng := by
  have hneed := (h.need_bounds hf).1
  cases hfsm : s.eng.fsm <;> simp [hfsm, Fsm.inFrame] at hf <;>
    simp only [ChunkOk, hfsm, takeChunkByte_eng, authOf, pdEnd] at h ⊢ <;> grind

/-- A byte stored at FBUF[pos] keeps an attempt's parts (R142). -/
theorem Attempt.takeChunkByte {s : State} (h : Attempt s) (hpos : s.eng.pos ≤ 1102) (b : Byte) :
    Attempt (takeChunkByte b s) where
  base := by
    have hstored : Base (bufStore s .fbuf s.eng.pos b) :=
      h.base.bufStore (by omega) (fun h0 => absurd h.frame.pos (by omega))
    obtain ⟨hneed, -, hrest⟩ := h.base.rng
    exact hstored.congr rfl rfl rfl ⟨(Nat.sub_le ..).trans hneed, Nat.succ_le_succ hpos, hrest⟩ h.base.res
  running := by
    obtain ⟨eos, fv, op, done, outcome, code⟩ := h.running
    exact ⟨eos, fv, op, done, outcome, code⟩
  frame := by
    obtain ⟨hone, hwritten, hpre⟩ := h.frame
    refine ⟨Nat.le_succ_of_le hone, fun i hi => ?_, ?_⟩
    · rw [takeChunkByte_mem]
      obtain rfl | hlt := Nat.eq_or_lt_of_le (Nat.le_of_lt_succ hi)
      · simp
      · exact isSome_memLookup_memStore (hwritten i hlt)
    · rw [takeChunkByte_mem, memLookup_memStore, if_neg (by omega), hpre]

/-! ## The end of a chunk -/

/-- The end of the frame-start chunk (R143). -/
theorem Attempt.chunkEndFs {s : State} (h : Attempt s) (hpos : s.eng.pos = 4) : Inv (chunkEndFs s) := by
  obtain ⟨-, hpd, hea, herr⟩ := h.base.res
  have hfs : (decodeFs s).regs.hdrFs &&& 0xF0CC0000#32 = 0#32 :=
    hdrFs_reserved (ext_lt ..) (ext_lt ..) (ext_lt ..) (ext_lt ..) (ext_lt ..)
  have ht : Attempt (decodeFs s) := h.congr rfl rfl rfl rfl rfl h.base.rng ⟨hfs, hpd, hea, herr⟩
  exact ht.enterChunk rfl (by decide) ⟨Nat.succ_pos _, le_rfl, congrArg (· + 4) hpos⟩

/-- What follows the payload: the auth chunk or the trailer (R147). -/
theorem Attempt.enterAuth {s : State} (h : Attempt s) (hpos : s.eng.pos = pdEnd s.eng + s.eng.fPl.toNat) :
    Inv (enterAuth s) := by
  obtain ⟨hneed, hpos', hfauth, hlen, -, hoff⟩ := h.base.rng
  have hle : authLen s.eng.fEaf s.eng.fAi s.eng.fEalc ≤ 64 := authLen_le ..
  have hcrc := crcBytes_range s.eng.fCt
  have hvalue : (setAuth (authLen s.eng.fEaf s.eng.fAi s.eng.fEalc) s).regs.authLen.toNat
      = authLen s.eng.fEaf s.eng.fAi s.eng.fEalc := toNat_ofNat_of_lt (by omega)
  have ht : Attempt (setAuth (authLen s.eng.fEaf s.eng.fAi s.eng.fEalc) s) := by
    refine h.congr rfl rfl rfl rfl rfl ⟨hneed, hpos', hle, hlen, ?_, hoff⟩ h.base.res
    rw [hvalue]
    exact authLen_values ..
  simp only [Machine.enterAuth]
  split
  case isTrue hauth => exact ht.enterChunk rfl (by omega) ⟨hauth, le_rfl, rfl, by simp [hpos, pdEnd, authOf]⟩
  case isFalse hauth =>
    have hzero : authLen s.eng.fEaf s.eng.fAi s.eng.fEalc = 0 := by omega
    exact ht.enterChunk rfl (by omega) ⟨hcrc.1, le_rfl, rfl, by simp [hpos, pdEnd, authOf, hzero]⟩

/-- The strict length error ends the attempt with FRAME_LEN = pos and AUTH_LEN = 0 (R147, R157). -/
theorem Attempt.strictError {s : State} (h : Attempt s) : Inv (strictError s) := by
  obtain ⟨hneed, hpos, hfauth, hlen, -, hoff⟩ := h.recordLength.base.rng
  have ht : Attempt { Machine.recordLength s with
      regs := { (Machine.recordLength s).regs with authLen := 0#32 } } :=
    h.recordLength.congr rfl rfl rfl rfl rfl ⟨hneed, hpos, hfauth, hlen, .inl rfl, hoff⟩ h.base.res
  exact ht.base.recoverable ht.running (c := .ealUnmapped) (by decide)

/-- The end of the payload chunk (R147). -/
theorem Attempt.payloadDone {s : State} (h : Attempt s) (hpos : s.eng.pos = pdEnd s.eng + s.eng.fPl.toNat) :
    Inv (payloadDone s) := by
  have hcounted : Attempt (countUnmapped s) := h.congr rfl rfl rfl rfl rfl h.base.rng h.base.res
  unfold Machine.payloadDone
  split
  · split
    · exact hcounted.strictError
    · exact hcounted.enterAuth hpos
  · exact h.enterAuth hpos

/-- The end of the payload descriptor (R146, R151). -/
theorem Attempt.pdDone {s : State} (h : Attempt s) (hpos : s.eng.pos = pdEnd s.eng) : Inv (pdDone s) := by
  obtain ⟨hfs, -, -, herr⟩ := h.base.res
  obtain ⟨hneed, hpos', hfauth, hlen, hauth, -⟩ := h.base.rng
  have hpd : (decodePd s).regs.hdrPd &&& 0xFFF080E0#32 = 0#32 :=
    hdrPd_reserved (ext_lt ..) (Bool.toNat_lt _) (ext_lt ..) (ext_lt ..)
  have hea : (decodePd s).regs.hdrEa &&& 0xFFFE0000#32 = 0#32 := by
    cases heaf : s.eng.fEaf with
    | false => simp [decodePd, heaf]
    | true => simpa [decodePd, heaf] using hdrEa_reserved (ext_lt ..) (ext_lt ..) (ext_lt ..) (ext_lt ..)
  have hoff : (decodePd s).regs.payloadOff.toNat = s.eng.pos := toNat_ofNat_of_lt (by omega)
  have hvalues : s.eng.pos = 8 ∨ s.eng.pos = 10 ∨ s.eng.pos = 12 := by
    have httt := Bool.toNat_lt s.eng.fTtt
    have heaf := Bool.toNat_lt s.eng.fEaf
    unfold pdEnd at hpos
    omega
  have ht : Attempt (decodePd s) :=
    h.congr rfl rfl rfl rfl rfl ⟨hneed, hpos', hfauth, hlen, hauth, .inr (by rw [hoff]; exact hvalues)⟩
      ⟨hfs, hpd, hea, herr⟩
  unfold Machine.pdDone enterPayload
  split
  case isTrue hpl => exact ht.enterChunk rfl (fPl_le _) ⟨hpl, le_rfl, congrArg (· + _) hpos⟩
  case isFalse hpl =>
    have hzero : (decodePd s).eng.fPl.toNat = 0 := by omega
    exact ht.payloadDone (by rw [hzero]; exact hpos)

/-- The extension chunk, or the descriptor's end when there is none (R144, R145). -/
theorem Attempt.enterExtension {s : State} (h : Attempt s) (hpos : s.eng.pos = 8 + 2 * s.eng.fTtt.toNat) :
    Inv (enterExtension s) := by
  cases heaf : s.eng.fEaf with
  | true =>
    rw [enterExtension_of_eaf heaf]
    exact h.enterChunk rfl (by decide) ⟨Nat.succ_pos _, le_rfl, by simp only [hpos]; omega, heaf⟩
  | false =>
    rw [enterExtension_of_not_eaf heaf]
    exact h.pdDone (by simp [hpos, pdEnd, heaf])

/-- The end of the descriptor's first four bytes (R144). -/
theorem Attempt.chunkEndPd {s : State} (h : Attempt s) (hpos : s.eng.pos = 8) : Inv (chunkEndPd s) := by
  have ht : Attempt (latchTtt s) := h.congr rfl rfl rfl rfl rfl h.base.rng h.base.res
  unfold Machine.chunkEndPd
  split
  case isTrue httt =>
    exact ht.enterChunk rfl (by decide) ⟨Nat.succ_pos _, le_rfl, congrArg (· + 2) hpos, httt⟩
  case isFalse httt =>
    have hfalse : (latchTtt s).eng.fTtt = false := by simpa using httt
    exact ht.enterExtension (by rw [hfalse]; exact hpos)

/-- The trailer's registers and flags keep what `Inv` says of a running READ_NEXT (R149). -/
theorem Attempt.recordCrc {s : State} (h : Attempt s) : Base (recordCrc s) ∧ Running (recordCrc s) := by
  obtain ⟨eos, fv, op, done, outcome, code⟩ := h.running
  have hb := h.recordLength.base
  refine ⟨⟨hb.wf, hb.rng, hb.res, fun hok => ?_, hb.fv, hb.written, hb.pre⟩,
    ⟨eos, fv, op, done, outcome, code⟩⟩
  exact (Bool.and_eq_true_iff.mp hok).1

/-- The end of the trailer: delivery, or a CRC error by the policy (R149, R150). -/
theorem Attempt.chunkEndCrc {s : State} (h : Attempt s) (hpos : 9 ≤ s.eng.pos) : Inv (chunkEndCrc s) := by
  obtain ⟨hb, hr⟩ := h.recordCrc
  obtain ⟨-, hle, -⟩ := h.base.rng
  have hlen : (Machine.recordCrc s).regs.frameLen.toNat = s.eng.pos := toNat_ofNat_of_lt (by omega)
  unfold Machine.chunkEndCrc
  split
  · have ht : Base { Machine.recordCrc s with
        regs := { (Machine.recordCrc s).regs with
          crcErrCnt := (Machine.recordCrc s).regs.crcErrCnt + 1#32 } } :=
      hb.congr rfl rfl rfl hb.rng hb.res
    exact ht.recoverable (c := .crcMismatch) ⟨hr.eos, hr.fv, hr.op, hr.done, hr.outcome, hr.code⟩ (by decide)
  · have ht : Base { Machine.recordCrc s with
        status := { (Machine.recordCrc s).status with frameValid := true }
        regs := { (Machine.recordCrc s).regs with
          frameCnt := (Machine.recordCrc s).regs.frameCnt + 1#32 } } :=
      ⟨hb.wf, hb.rng, hb.res, hb.crc, fun _ => hlen ▸ hpos, hb.written, hb.pre⟩
    exact ht.complete (by decide)

/-- The end of every chunk gives `Inv`. -/
theorem Attempt.chunkEnd {s : State} (h : Attempt s) (hf : s.eng.fsm.inFrame = true)
    (hfull : ChunkFull s.eng) : Inv (chunkEnd s) := by
  cases hfsm : s.eng.fsm <;> simp only [ChunkFull, hfsm] at hfull
  case fs => rw [chunkEnd_of_fs hfsm]; exact h.chunkEndFs hfull
  case pd => rw [chunkEnd_of_pd hfsm]; exact h.chunkEndPd hfull
  case pdTt =>
    rw [chunkEnd_of_pdTt hfsm]
    exact h.enterExtension (by rw [hfull.1, hfull.2]; rfl)
  case pdEa =>
    rw [chunkEnd_of_pdEa hfsm]
    exact h.pdDone (by rw [pdEnd, hfull.1, hfull.2, Bool.toNat_true]; omega)
  case payload => rw [chunkEnd_of_payload hfsm]; exact h.payloadDone hfull
  case auth =>
    have hcrc := crcBytes_range s.eng.fCt
    rw [chunkEnd_of_auth hfsm]
    exact h.enterChunk rfl (by omega) ⟨hcrc.1, le_rfl, hfull.1, congrArg (· + _) hfull.2⟩
  case crc =>
    have hpd := pdEnd_bounds s.eng
    have hcrc := crcBytes_range s.eng.fCt
    rw [chunkEnd_of_crc hfsm]
    exact h.chunkEndCrc (by omega)
  case idle | exec | seek => simp [hfsm, Fsm.inFrame] at hf

/-! ## The engine's steps -/

/-- A byte taken in a chunk state (R142). -/
theorem Inv.chunkByte {s : State} (h : Inv s) (hf : s.eng.fsm.inFrame = true) (b : Byte) :
    ∃ t, chunkByte b s = .next t ∧ Inv t := by
  obtain ⟨-, hchunk, -⟩ := id h
  obtain ⟨hneed, hend⟩ := hchunk.need_bounds hf
  have ht : Attempt (takeChunkByte b s) := (h.attempt hf).takeChunkByte (by omega) b
  have hfits : s.eng.pos < Config.fbufSize := (show s.eng.pos ≤ 1102 by omega).trans_lt (by decide)
  refine ⟨_, if_neg (by omega), ?_⟩
  split
  case isTrue hlast =>
    rw [takeChunkByte_eng] at hlast
    exact ht.chunkEnd hf (hchunk.full_of_last (by simp only at hlast; omega) b)
  case isFalse hmore =>
    rw [takeChunkByte_eng] at hmore
    exact ht.base.inv_of_running ht.running (reading_of_inFrame hf) (fun _ => ht.frame)
      (hchunk.takeChunkByte hf (by simp only at hmore; omega) b)

/-- A byte taken in SEEK (R141). -/
theorem Inv.seekByte {s : State} (h : Inv s) (hseek : s.eng.fsm = .seek) (b : Byte) : Inv (seekByte b s) := by
  have hreading : s.eng.fsm.reading = true := by simp [hseek, Fsm.reading]
  obtain ⟨eos, fv, op, done, outcome, code⟩ := h.running hreading
  have hb := h.base
  obtain ⟨hneed, -, hrest⟩ := hb.rng
  unfold Machine.seekByte
  split
  case isTrue hpre =>
    have ht : Base (startAttempt b (countByte s)) :=
      (hb.bufStore (i := 0) (by decide) (fun _ => hpre)).congr rfl rfl rfl ⟨by simp, by simp, hrest⟩ hb.res
    have hstored : memLookup (startAttempt b (countByte s)).mem Config.fbufBase = some Config.preamble := by
      rw [← hpre]
      exact (memLookup_memStore ..).trans (if_pos rfl)
    refine ht.inv_of_running ⟨eos, fv, op, done, outcome, code⟩ rfl (fun _ => ⟨le_rfl, fun i hi => ?_, hstored⟩)
      ⟨Nat.succ_pos _, le_rfl, rfl⟩
    obtain rfl : i = 0 := Nat.lt_one_iff.mp hi
    exact Option.isSome_iff_exists.mpr ⟨_, hstored⟩
  case isFalse =>
    have ht : Base (countDiscard (countByte s)) := hb.congr rfl rfl rfl hb.rng hb.res
    have hr : Running (countDiscard (countByte s)) := ⟨eos, fv, op, done, outcome, code⟩
    split
    · exact ht.recoverable hr (by decide)
    · exact ht.inv_of_running hr hreading (fun hf => by simp [hseek, Fsm.inFrame] at hf)
        (by simp [ChunkOk, hseek])

/-- The end of the stream in a reading state, by Eos, Err or ABORT (R152, R153). -/
theorem Inv.endStream {s : State} (h : Inv s) (hr : s.eng.fsm.reading = true) (eof : Bool) :
    Inv (endStream eof s) := by
  have hb := h.base
  have ht : Base (latchEos s) := hb.congr rfl rfl rfl hb.rng hb.res
  unfold Machine.endStream
  split
  · split
    · exact ht.complete (by decide)
    · exact ht.complete (by decide)
  case isFalse hseek =>
    have hf := (seek_or_inFrame hr).resolve_left hseek
    obtain ⟨hpos, hwritten, hpre⟩ := h.inFrame hf
    have hfv := (h.running hr).fv
    have hlen : Base (recordLength (latchEos s)) :=
      ht.recordLength ⟨hpos, hwritten, hpre⟩ (fun hv => by simp [hfv] at hv)
    cases eof
    · exact hlen.complete (by decide)
    · exact hlen.complete (by decide)

/-- An event taken in a reading state. -/
theorem Inv.takeEvent {s : State} (h : Inv s) (hr : s.eng.fsm.reading = true) (e : SrcEvent) :
    ∃ t, takeEvent e s = .next t ∧ Inv t := by
  cases e with
  | byte b =>
    obtain hseek | hf := seek_or_inFrame hr
    · exact ⟨_, if_pos hseek, h.seekByte hseek b⟩
    · have hseek : s.eng.fsm ≠ .seek := by intro hs; simp [hs, Fsm.inFrame] at hf
      obtain ⟨t, ht, hinv⟩ := h.chunkByte hf b
      exact ⟨t, (if_neg hseek).trans ht, hinv⟩
  | eos => exact ⟨_, rfl, h.endStream hr true⟩
  | err => exact ⟨_, rfl, h.endStream hr false⟩

/-- An EXEC command completes behind its range check, whatever its kind (R113, R126, R127). -/
theorem finishExec_eq_completeChecked (o : Op) (s : State) :
    ∃ ok lo hi, finishExec o s = completeChecked ok lo hi s := by
  cases hk : o.kind with
  | extract => exact ⟨_, _, _, by rw [finishExec, hk]; rfl⟩
  | crcCompute => exact ⟨_, _, _, by rw [finishExec, hk]; rfl⟩
  | crcValidate => exact ⟨_, _, _, by rw [finishExec, hk]; rfl⟩

/-- The completing step of a command in EXEC (R113, R126, R127). -/
theorem Base.finishExec {s : State} (h : Base s) (o : Op) : Inv (finishExec o s) := by
  have ht (lo hi : Word) : Base (setResult lo hi s) := h.congr rfl rfl rfl h.rng h.res
  obtain ⟨ok, lo, hi, heq⟩ := finishExec_eq_completeChecked o s
  rw [heq]
  cases ok with
  | true => exact (ht lo hi).complete (o := .ok) (c := .none) (by decide)
  | false => exact (ht 0#32 0#32).complete (o := .error) (c := .outOfRange) (by decide)

/-- An engine step in EXEC (R248). -/
theorem Inv.execStep {s : State} (h : Inv s) (hexec : s.eng.fsm = .exec) :
    ∃ t, execStep s = .next t ∧ Inv t := by
  obtain ⟨-, -, -, -, ⟨-, -, -, -, hop, -⟩, -⟩ := id h
  obtain ⟨o, ho⟩ := Option.isSome_iff_exists.mp (hop hexec)
  cases hwork : s.free.work with
  | zero => exact ⟨_, by simp [Machine.execStep, ho, hwork], h.base.finishExec o⟩
  | succ n =>
    exact ⟨{ s with free := { s.free with work := n } }, by simp [Machine.execStep, ho, hwork], h⟩

/-- From `Inv` the engine always goes on, to a state of `Inv`. -/
theorem Inv.engineStep {s : State} (h : Inv s) : ∃ t, engineStep s = .next t ∧ Inv t := by
  by_cases hexec : s.eng.fsm = .exec
  · have he : Machine.engineStep s = Machine.execStep s := by simp [Machine.engineStep, hexec]
    rw [he]
    exact h.execStep hexec
  · obtain hidle | hr := idle_or_reading hexec
    · exact ⟨s, engineStep_of_idle hidle, h⟩
    · cases hsrc : s.out.src with
      | nil => exact ⟨s, engineStep_of_empty hr hsrc, h⟩
      | cons e rest =>
        rw [engineStep_of_offered hr hsrc]
        exact Inv.takeEvent (s := { s with out := { s.out with src := rest } }) h hr e

/-! ## The host's steps -/

/-- The registers a command's start clears and sets do not reach `Base` (R180). -/
theorem Base.beginCommand {s : State} (h : Base s) (op : BitVec 4) : Base (beginCommand op s) :=
  ⟨h.wf, h.rng, h.res, h.crc, h.fv, h.written, h.pre⟩

/-- A refused command or a lost write only sets OVR (R71). -/
theorem Inv.setOvr {s : State} (h : Inv s) : Inv (setOvr s) := h

/-- An EXEC command at its CMD write (R180). -/
theorem Inv.startExec {s : State} (h : Inv s) (k : ExecKind) (op : BitVec 4) (b : Source) (c : CrcSel) :
    Inv (startExec k op b c s) := by
  unfold Machine.startExec
  split
  · exact h.setOvr
  · have ht : Base (enterExec k b c (Machine.beginCommand op s)) :=
      (h.base.beginCommand op).congr rfl rfl rfl h.base.rng h.base.res
    exact ht.inv_of_exec rfl rfl rfl rfl rfl

/-- READ_NEXT at its CMD write while idle (R183). -/
theorem Inv.startRead {s : State} (h : Inv s) : Inv (startRead (beginCommand 1#4 s)) := by
  have hb := h.base
  have ht : Base (clearFrameFlags (Machine.beginCommand 1#4 s)) :=
    ⟨hb.wf, hb.rng, hb.res, nofun, nofun, hb.written, hb.pre⟩
  unfold Machine.startRead
  split
  · exact ht.complete (by decide)
  case isFalse heos =>
    have hseek : Base (enterSeek (clearFrameFlags (Machine.beginCommand 1#4 s))) :=
      ht.congr rfl rfl rfl ht.rng ht.res
    exact hseek.inv_of_running ⟨by simpa using heos, rfl, rfl, rfl, rfl, rfl⟩ rfl nofun trivial

/-- SOFT_RESET (R187). -/
theorem Inv.softReset {s : State} (h : Inv s) : Inv (softReset s) := by
  have ht : Base (clearForSoftReset s) :=
    ⟨h.base.wf, by simp [RangesOk, Engine.reset, Regs.reset], by simp [ReservedZero, Regs.reset], nofun, nofun,
      nofun, nofun⟩
  exact ht.complete (by decide)

/-- Every command goes on, to a state of `Inv`. -/
theorem Inv.exec {s : State} (h : Inv s) (i : Instr) : ∃ t, exec i s = .next t ∧ Inv t := by
  cases i with
  | nop b c =>
    refine ⟨_, rfl, ?_⟩
    split
    · exact h.setOvr
    · exact (h.base.beginCommand 0#4).complete (by decide)
  | readNext b c =>
    refine ⟨_, rfl, ?_⟩
    split
    · exact h.setOvr
    · exact h.startRead
  | extract b c => exact ⟨_, rfl, h.startExec ..⟩
  | crcCompute b c => exact ⟨_, rfl, h.startExec ..⟩
  | crcValidate b c => exact ⟨_, rfl, h.startExec ..⟩
  | abort b c =>
    refine ⟨_, rfl, ?_⟩
    split
    case isTrue hr => exact h.endStream hr true
    case isFalse =>
      split
      · exact h.setOvr
      · have ht : Base (latchEos (beginCommand 5#4 s)) :=
          (h.base.beginCommand 5#4).congr rfl rfl rfl h.base.rng h.base.res
        exact ht.complete (by decide)
  | softReset b c => exact ⟨_, rfl, h.softReset⟩

/-- A word written to CMD (R83, R180). -/
theorem Inv.cmdWrite {s : State} (h : Inv s) (w : Word) : ∃ t, cmdWrite w s = .next t ∧ Inv t := by
  unfold Machine.cmdWrite
  split
  · exact h.exec _
  · refine ⟨_, rfl, ?_⟩
    split
    · exact h.setOvr
    · exact (h.base.beginCommand _).complete (by decide)

/-- A write that BUSY guards (R71). -/
theorem Inv.guardedWrite {s t : State} (h : Inv s) (ht : Inv t) : Inv (guardedWrite s t) := by
  unfold Machine.guardedWrite
  split
  · exact h.setOvr
  · exact ht

/-- A write to STATUS clears flags that `Inv` lets be clear (R24). -/
theorem Inv.statusW1c {s : State} (h : Inv s) (v : Word) : Inv { s with status := statusW1c s.status v } := by
  obtain ⟨hwf, hchunk, hrng, hres, ⟨hbusy, hstatus⟩, hfbuf⟩ := h
  refine ⟨hwf, hchunk, hrng, hres, ⟨fun hb => ?_, hstatus⟩, hfbuf⟩
  obtain ⟨hdone, hrest⟩ := hbusy hb
  exact ⟨by simp [Machine.statusW1c, hdone], hrest⟩

/-- A write to a register (R61). -/
theorem Inv.regWrite {s : State} (h : Inv s) (r : Reg) (v : Word) : ∃ t, regWrite r v s = .next t ∧ Inv t := by
  cases r
  case cmd => exact h.cmdWrite v
  case status => exact ⟨_, rfl, h.statusW1c v⟩
  case ctrl | arg0 | arg1 | expected | dbufLen => exact ⟨_, rfl, h.guardedWrite h⟩
  all_goals exact ⟨s, rfl, h⟩

/-- A byte stored in DBUF (R44, R60). -/
theorem Inv.bufStore_dbuf {s : State} (h : Inv s) {i : Nat} (hi : i < 2048) (b : Byte) :
    Inv (bufStore s .dbuf i b) := by
  obtain ⟨hwf, hchunk, hrng, hres, hstatus, hwritten, hframe, hpre⟩ := h
  have hkeep (j : Nat) (hj : j < 2048) : memLookup (bufStore s .dbuf i b).mem (Config.fbufBase + j)
      = memLookup s.mem (Config.fbufBase + j) := memLookup_fbuf_store_dbuf s.mem i j b hj
  obtain ⟨-, hpos, -, hlen, -⟩ := id hrng
  refine ⟨wf_bufStore hwf hi, hchunk, hrng, hres, hstatus, fun j hj => ?_, fun hf => ?_, fun hp => ?_⟩
  · rw [hkeep j (by simp only [bufStore_regs] at hj; omega)]
    exact hwritten j hj
  · refine ⟨(hframe hf).1, fun j hj => ?_⟩
    rw [hkeep j (by simp only [bufStore_eng] at hj; omega)]
    exact (hframe hf).2 j hj
  · exact (hkeep 0 (by decide)).trans (hpre hp)

/-- A word stored in DBUF (R62). -/
theorem Inv.storeWord_dbuf {s : State} (h : Inv s) {i : Nat} (hi : i + 3 < 2048) (v : Word) :
    Inv (storeWord s .dbuf i v) :=
  (((h.bufStore_dbuf (by omega) _).bufStore_dbuf (by omega) _).bufStore_dbuf (by omega) _).bufStore_dbuf hi _

/-- What the bus reaches in a window lies inside it: a byte, or a whole aligned word (R60, R62). -/
theorem accessTarget_window {off : BitVec 14} {w i : Nat} {b : Source} :
    (accessTarget off w = some (.byte b i) → i < 2048)
      ∧ (accessTarget off w = some (.word b i) → i + 3 < 2048) := by
  unfold accessTarget
  split
  case h_1 b' i' hwin =>
    obtain ⟨hi, hoff⟩ := windowAt_eq hwin
    have hbase : bufBase b' % 4 = 0 := by cases b' <;> rfl
    constructor
    · split
      · rintro ⟨⟩; exact hi
      · split <;> nofun
    · split
      · nofun
      · split
        case isTrue hal => rintro ⟨⟩; omega
        case isFalse => nofun
  case h_2 => constructor <;> (split <;> simp)

/-- Every host write goes on, to a state of `Inv`. -/
theorem Inv.busWrite {s : State} (h : Inv s) (off : BitVec 14) (w : Nat) (v : Word) :
    ∃ t, busWrite off w v s = .next t ∧ Inv t := by
  unfold Machine.busWrite
  split
  case h_1 => exact h.regWrite _ v
  case h_2 => exact ⟨s, rfl, h⟩
  case h_3 => exact ⟨s, rfl, h⟩
  case h_4 ht => exact ⟨_, rfl, h.guardedWrite (h.bufStore_dbuf (accessTarget_window.1 ht) _)⟩
  case h_5 ht => exact ⟨_, rfl, h.guardedWrite (h.storeWord_dbuf (accessTarget_window.2 ht) v)⟩
  case h_6 => exact ⟨_, rfl, h⟩

/-- A host read changes only what the host holds, and ACCERR (R63, R69). -/
theorem Inv.busRead {s : State} (h : Inv s) (off : BitVec 14) (w : Nat) : Inv (busRead off w s) := by
  unfold Machine.busRead
  split
  · exact h
  · exact h

/-! ## The source's step -/

/-- The source's step before the end of its stream: one more event is offered behind the others (R64). -/
theorem offerEvent_of_open {s : State} (h : s.out.srcEnded = false) (e : SrcEvent) :
    offerEvent e s = .next { s with
      out := { s.out with src := s.out.src ++ [e], srcEnded := decide (e = .eos ∨ e = .err) } } := by
  simp [offerEvent, h]

/-- After the end of its stream the source may offer nothing (R64, I8). -/
theorem offerEvent_of_ended {s : State} (h : s.out.srcEnded = true) (e : SrcEvent) :
    offerEvent e s = .refused .offerAfterEnd := by
  simp [offerEvent, h]

/-- Settles O31: the two cases of `offerEvent` at the popped state. -/
theorem sourceOffersInOrder : Obligations.SourceOffersInOrder := by
  intro s e rest hin
  rw [step_of_offer hin]
  exact ⟨fun hopen => offerEvent_of_open (s := s.pop rest) hopen e,
    fun hended => offerEvent_of_ended (s := s.pop rest) hended e⟩

/-! ## The step of the machine -/

/-- Settles O47: every part of `Inv` is closed at the reset values. -/
theorem resetMeetsInvariant : Obligations.ResetMeetsInvariant := by
  exact ⟨wf_reset, trivial, by decide, by decide, by decide, by decide⟩

/-- The reset input gives `Inv` from every state: `Inv` does not read what the reset keeps (R240). -/
theorem inv_hardReset (s : State) : Inv (hardReset s) := resetMeetsInvariant

/-- From `Inv` a step goes on to a state of `Inv`, or is the refusal of an offer after the end (R64). -/
theorem Inv.step {s : State} (h : Inv s) :
    (∃ t, step s = .next t ∧ Inv t)
      ∨ (step s = .refused .offerAfterEnd ∧ s.out.srcEnded = true ∧ ∃ e rest, s.out.inputs = .offer e :: rest) := by
  have hpop (rest : List Input) : Inv (s.pop rest) := h
  match hin : s.out.inputs with
  | [] => rw [step_of_nil hin]; exact .inl h.engineStep
  | .tick :: rest => rw [step_of_tick hin]; exact .inl (hpop rest).engineStep
  | .read off w :: rest => rw [step_of_read hin]; exact .inl ⟨_, rfl, (hpop rest).busRead off w⟩
  | .write off w v :: rest => rw [step_of_write hin]; exact .inl ((hpop rest).busWrite off w v)
  | .rst :: rest => rw [step_of_rst hin]; exact .inl ⟨_, rfl, inv_hardReset _⟩
  | .offer e :: rest =>
    rw [step_of_offer hin]
    cases hended : s.out.srcEnded with
    | true => exact .inr ⟨offerEvent_of_ended (s := s.pop rest) hended e, rfl, e, rest, rfl⟩
    | false => exact .inl ⟨_, offerEvent_of_open (s := s.pop rest) hended e, h⟩

/-- Settles O48: the step lemma of `Inv` with the refusal ruled out. -/
theorem stepKeepsInvariant : Obligations.StepKeepsInvariant := by
  intro s t hinv hstep
  obtain ⟨u, hu, hinv'⟩ | ⟨hrefused, -⟩ := hinv.step
  · rw [hstep] at hu
    cases hu
    exact hinv'
  · rw [hstep] at hrefused
    cases hrefused

/-- Settles O49: the same lemma, which has no fault. -/
theorem invariantStatesNeverFault : Obligations.InvariantStatesNeverFault := by
  intro s hinv
  obtain ⟨u, hu, -⟩ | ⟨hrefused, hended, hoffer⟩ := hinv.step
  · simp [hu, notFault, isNext]
  · simp [hrefused, notFault, hended, hoffer]

end Sys2Proof.Machine
end

section
/-!
The engine's steps (spec/42_frame_assembler.md sections 1 and 5, spec/43_reader_control.md section 2): what every
engine step leaves alone, which events it takes, and how a READ_NEXT goes on, fails, delivers or ends.
-/

namespace Sys2Proof.Machine

/-! ## What an engine step keeps -/

/-- The operand registers, which only the host writes (R26 to R29, R46). -/
def operands (s : State) : Word × Word × Word × Word :=
  (s.regs.arg0, s.regs.arg1, s.regs.expected, s.regs.dbufLen)

/-- What the engine's work on a command leaves alone: CTRL, the operands, the other agents, `eos` and the
cursor. -/
structure Kept (s t : State) : Prop where
  ctrl : t.ctrl = s.ctrl
  operands : operands t = operands s
  out : t.out = s.out
  eos : t.eng.eos = s.eng.eos
  cursor : t.eng.cursor = s.eng.cursor

theorem Kept.refl (s : State) : Kept s s := ⟨rfl, rfl, rfl, rfl, rfl⟩

theorem Kept.trans {s t u : State} (h : Kept s t) (k : Kept t u) : Kept s u :=
  ⟨k.ctrl.trans h.ctrl, k.operands.trans h.operands, k.out.trans h.out, k.eos.trans h.eos,
    k.cursor.trans h.cursor⟩

theorem kept_complete (o : CmdOutcome) (c : ErrCode) (s : State) : Kept s (complete o c s) := by
  cases o <;> exact ⟨rfl, rfl, rfl, rfl, rfl⟩

theorem kept_completeChecked (ok : Bool) (lo hi : Word) (s : State) : Kept s (completeChecked ok lo hi s) := by
  cases ok <;> exact ⟨rfl, rfl, rfl, rfl, rfl⟩

theorem kept_finishExec (o : Op) (s : State) : Kept s (finishExec o s) := by
  obtain ⟨ok, lo, hi, h⟩ := finishExec_eq_completeChecked o s
  exact h ▸ kept_completeChecked ok lo hi s

/-- An engine step in EXEC (R248). -/
theorem kept_of_execStep {s t : State} (h : execStep s = .next t) : Kept s t := by
  unfold execStep at h
  split at h
  case h_1 => cases h
  case h_2 o _ =>
    split at h <;> cases h
    · exact kept_finishExec o s
    · exact ⟨rfl, rfl, rfl, rfl, rfl⟩

/-- The end of the stream sets `eos` and keeps the rest (R152, R153). -/
theorem kept_endStream (eof : Bool) (s : State) : Kept (latchEos s) (endStream eof s) := by
  unfold endStream
  split
  · split <;> exact kept_complete ..
  · exact (Kept.mk rfl rfl rfl rfl rfl : Kept (latchEos s) (recordLength (latchEos s))).trans (kept_complete ..)

/-! ## How a READ_NEXT takes a byte -/

/-- What a READ_NEXT reports of itself: the completion flags, FRAME_VALID and FRAME_CNT (R24, R40). -/
structure ReadReport where
  done : Bool
  outcome : CmdOutcome
  errCode : ErrCode
  frameValid : Bool
  frameCnt : Word

/-- The report a state holds. -/
def readReport (s : State) : ReadReport :=
  { done := s.status.done, outcome := s.status.outcome, errCode := s.status.errCode,
    frameValid := s.status.frameValid, frameCnt := s.regs.frameCnt }

/-- An update inside a READ_NEXT that neither completes it nor counts a frame. -/
structure Quiet (s t : State) : Prop extends Kept s t where
  report : readReport t = readReport s

/-- The error codes that follow the policy (R184, R211). -/
def recoverableCodes : List ErrCode := [.crcMismatch, .ealUnmapped, .unknownProtocol]

/-- How a READ_NEXT decides on a byte: it goes on, it fails under RAISE, or it delivers its frame. -/
inductive ReadMove (s t : State) : Prop
  | goesOn (hquiet : Quiet s t) (hreading : t.eng.fsm.reading = true)
  | fails (u : State) (c : ErrCode) (hquiet : Quiet s u) (hraise : s.ctrl.policy = .raise)
      (hcode : c ∈ recoverableCodes) (ht : t = complete .error c u)
  | delivers (u : State) (hquiet : Quiet s u) (ht : t = deliver u)

theorem Quiet.trans {s t u : State} (h : Quiet s t) (k : Quiet t u) : Quiet s u :=
  ⟨h.toKept.trans k.toKept, k.report.trans h.report⟩

theorem Quiet.move {s t u : State} (h : Quiet s t) (m : ReadMove t u) : ReadMove s u := by
  cases m with
  | goesOn hquiet hreading => exact .goesOn (h.trans hquiet) hreading
  | fails v c hquiet hraise hcode ht => exact .fails v c (h.trans hquiet) (h.ctrl ▸ hraise) hcode ht
  | delivers v hquiet ht => exact .delivers v (h.trans hquiet) ht

theorem ReadMove.kept {s t : State} (m : ReadMove s t) : Kept s t := by
  cases m with
  | goesOn hquiet _ => exact hquiet.toKept
  | fails u c hquiet _ _ ht => exact ht ▸ hquiet.toKept.trans (kept_complete ..)
  | delivers u hquiet ht => exact ht ▸ hquiet.toKept.trans ⟨rfl, rfl, rfl, rfl, rfl⟩

/-- A recoverable error ends the READ_NEXT under RAISE and else goes back to SEEK (R185). -/
theorem readMove_recoverable {c : ErrCode} (hc : c ∈ recoverableCodes) (s : State) :
    ReadMove s (recoverable c s) := by
  obtain ⟨hraise, h⟩ | ⟨-, h⟩ := recoverable_cases c s <;> rw [h]
  · exact .fails s c ⟨Kept.refl s, rfl⟩ hraise hc rfl
  · exact .goesOn ⟨⟨rfl, rfl, rfl, rfl, rfl⟩, rfl⟩ rfl

theorem readMove_enterChunk {f : Fsm} (hf : f.reading = true) (n : Nat) (s : State) :
    ReadMove s (enterChunk f n s) :=
  .goesOn ⟨⟨rfl, rfl, rfl, rfl, rfl⟩, rfl⟩ hf

theorem readMove_enterAuth (s : State) : ReadMove s (enterAuth s) := by
  have hquiet (n : Nat) : Quiet s (setAuth n s) := ⟨⟨rfl, rfl, rfl, rfl, rfl⟩, rfl⟩
  simp only [enterAuth]
  split
  · exact (hquiet _).move (readMove_enterChunk rfl _ _)
  · exact (hquiet _).move (readMove_enterChunk rfl _ _)

theorem readMove_payloadDone (s : State) : ReadMove s (payloadDone s) := by
  have hcounted : Quiet s (countUnmapped s) := ⟨⟨rfl, rfl, rfl, rfl, rfl⟩, rfl⟩
  unfold payloadDone
  split
  · refine hcounted.move ?_
    split
    · have herror : Quiet (countUnmapped s) { countUnmapped s with
          regs := { (countUnmapped s).regs with authLen := 0#32, frameLen := BitVec.ofNat 32 s.eng.pos } } :=
        ⟨⟨rfl, rfl, rfl, rfl, rfl⟩, rfl⟩
      exact herror.move (readMove_recoverable (c := .ealUnmapped) (by decide) _)
    · exact readMove_enterAuth _
  · exact readMove_enterAuth s

theorem readMove_pdDone (s : State) : ReadMove s (pdDone s) := by
  have hdecoded : Quiet s (decodePd s) := ⟨⟨rfl, rfl, rfl, rfl, rfl⟩, rfl⟩
  unfold pdDone enterPayload
  split
  · exact hdecoded.move (readMove_enterChunk rfl _ _)
  · exact hdecoded.move (readMove_payloadDone _)

theorem readMove_enterExtension (s : State) : ReadMove s (enterExtension s) := by
  unfold enterExtension
  split
  · exact readMove_enterChunk rfl _ _
  · exact readMove_pdDone s

theorem readMove_chunkEndPd (s : State) : ReadMove s (chunkEndPd s) := by
  have hlatched : Quiet s (latchTtt s) := ⟨⟨rfl, rfl, rfl, rfl, rfl⟩, rfl⟩
  unfold chunkEndPd
  split
  · exact hlatched.move (readMove_enterChunk rfl _ _)
  · exact hlatched.move (readMove_enterExtension _)

theorem readMove_chunkEndCrc (s : State) : ReadMove s (chunkEndCrc s) := by
  have hrecorded : Quiet s (recordCrc s) := ⟨⟨rfl, rfl, rfl, rfl, rfl⟩, rfl⟩
  unfold chunkEndCrc
  split
  · have hcounted : Quiet (recordCrc s) { recordCrc s with
        regs := { (recordCrc s).regs with crcErrCnt := (recordCrc s).regs.crcErrCnt + 1#32 } } :=
      ⟨⟨rfl, rfl, rfl, rfl, rfl⟩, rfl⟩
    exact hrecorded.move (hcounted.move (readMove_recoverable (c := .crcMismatch) (by decide) _))
  · exact .delivers _ hrecorded rfl

/-- The end of every chunk (R143 to R149). -/
theorem readMove_chunkEnd {s : State} (hf : s.eng.fsm.inFrame = true) : ReadMove s (chunkEnd s) := by
  cases hfsm : s.eng.fsm
  case fs =>
    have hdecoded : Quiet s (decodeFs s) := ⟨⟨rfl, rfl, rfl, rfl, rfl⟩, rfl⟩
    rw [chunkEnd_of_fs hfsm]
    exact hdecoded.move (readMove_enterChunk rfl _ _)
  case pd => rw [chunkEnd_of_pd hfsm]; exact readMove_chunkEndPd s
  case pdTt => rw [chunkEnd_of_pdTt hfsm]; exact readMove_enterExtension s
  case pdEa => rw [chunkEnd_of_pdEa hfsm]; exact readMove_pdDone s
  case payload => rw [chunkEnd_of_payload hfsm]; exact readMove_payloadDone s
  case auth => rw [chunkEnd_of_auth hfsm]; exact readMove_enterChunk rfl _ s
  case crc => rw [chunkEnd_of_crc hfsm]; exact readMove_chunkEndCrc s
  case idle | exec | seek => simp [hfsm, Fsm.inFrame] at hf

/-- A byte taken in SEEK (R141). -/
theorem readMove_seekByte {s : State} (hseek : s.eng.fsm = .seek) (b : Byte) :
    ReadMove (countByte s) (seekByte b s) := by
  have hcounted : Quiet (countByte s) (countDiscard (countByte s)) := ⟨⟨rfl, rfl, rfl, rfl, rfl⟩, rfl⟩
  unfold seekByte
  split
  · exact .goesOn ⟨⟨rfl, rfl, rfl, rfl, rfl⟩, rfl⟩ rfl
  · split
    · exact hcounted.move (readMove_recoverable (by decide) _)
    · exact .goesOn hcounted (by simp [hseek, Fsm.reading])

/-- A byte taken in a chunk state (R142). -/
theorem readMove_of_chunkByte {s t : State} (hf : s.eng.fsm.inFrame = true) {b : Byte}
    (h : chunkByte b s = .next t) : ReadMove (countByte s) t := by
  have htaken : Quiet (countByte s) (takeChunkByte b s) := ⟨⟨rfl, rfl, rfl, rfl, rfl⟩, rfl⟩
  unfold chunkByte at h
  split at h <;> cases h
  split
  · exact htaken.move (readMove_chunkEnd hf)
  · exact .goesOn htaken (reading_of_inFrame hf)

/-- A byte taken in a reading state. -/
theorem readMove_of_takeEvent {s t : State} (hr : s.eng.fsm.reading = true) {b : Byte}
    (h : takeEvent (.byte b) s = .next t) : ReadMove (countByte s) t := by
  by_cases hseek : s.eng.fsm = .seek
  · rw [takeEvent, if_pos hseek] at h
    cases h
    exact readMove_seekByte hseek b
  · rw [takeEvent, if_neg hseek] at h
    exact readMove_of_chunkByte ((seek_or_inFrame hr).resolve_left hseek) h

/-! ## What an engine step can do -/

/-- The source with `rest` still offered. -/
def withSrc (rest : List SrcEvent) (s : State) : State := { s with out := { s.out with src := rest } }

/-- An engine step in a reading state waits, takes a byte, or takes the end of the stream (R64, R66). -/
theorem engineStep_reading_cases {s t : State} (hr : s.eng.fsm.reading = true)
    (h : engineStep s = .next t) :
    (s.out.src = [] ∧ t = s)
    ∨ (∃ b rest, s.out.src = .byte b :: rest ∧ ReadMove (countByte (withSrc rest s)) t)
    ∨ ∃ e rest, s.out.src = e :: rest ∧ (e = .eos ∨ e = .err)
        ∧ t = endStream (decide (e = .eos)) (withSrc rest s) := by
  match hsrc : s.out.src with
  | [] =>
    rw [engineStep_of_empty hr hsrc] at h
    cases h
    exact .inl ⟨rfl, rfl⟩
  | .byte b :: rest =>
    rw [engineStep_of_offered hr hsrc] at h
    exact .inr (.inl ⟨b, rest, rfl, readMove_of_takeEvent (s := withSrc rest s) hr h⟩)
  | .eos :: rest =>
    rw [engineStep_of_offered hr hsrc] at h
    cases h
    exact .inr (.inr ⟨.eos, rest, rfl, .inl rfl, rfl⟩)
  | .err :: rest =>
    rw [engineStep_of_offered hr hsrc] at h
    cases h
    exact .inr (.inr ⟨.err, rest, rfl, .inr rfl, rfl⟩)

/-- An engine step with no event to take keeps what `Kept` says (R66, R248). -/
theorem kept_of_not_reading {s t : State} (hr : s.eng.fsm.reading = false) (h : engineStep s = .next t) :
    Kept s t := by
  cases hfsm : s.eng.fsm <;> simp [hfsm, Fsm.reading] at hr
  case idle =>
    rw [engineStep_of_idle hfsm] at h
    cases h
    exact Kept.refl s
  case exec =>
    rw [engineStep, hfsm] at h
    exact kept_of_execStep h

/-- Which event an engine step takes, and what it keeps beside it. -/
theorem engineStep_cases {s t : State} (h : engineStep s = .next t) :
    Kept s t
    ∨ (∃ b rest, s.out.src = .byte b :: rest ∧ Kept (countByte (withSrc rest s)) t)
    ∨ ∃ e rest, s.out.src = e :: rest ∧ (e = .eos ∨ e = .err) ∧ Kept (latchEos (withSrc rest s)) t := by
  cases hr : s.eng.fsm.reading with
  | false => exact .inl (kept_of_not_reading hr h)
  | true =>
    obtain ⟨-, rfl⟩ | ⟨b, rest, hsrc, hmove⟩ | ⟨e, rest, hsrc, he, rfl⟩ := engineStep_reading_cases hr h
    · exact .inl (Kept.refl t)
    · exact .inr (.inl ⟨b, rest, hsrc, hmove.kept⟩)
    · exact .inr (.inr ⟨e, rest, hsrc, he, kept_endStream ..⟩)

/-- Settles O52: the three ways of an engine step, each with its cursor. -/
theorem cursorCountsTakenBytes : Obligations.CursorCountsTakenBytes := by
  intro s t h
  obtain hk | ⟨b, rest, hsrc, hk⟩ | ⟨e, rest, hsrc, he, hk⟩ := engineStep_cases h
  · exact ⟨congrArg _ hk.out, .inl ⟨congrArg _ hk.out, hk.cursor⟩⟩
  · have hrest : t.out.src = rest := congrArg _ hk.out
    exact ⟨congrArg (·.inputs) hk.out, .inr (.inl ⟨b, hrest ▸ hsrc, hk.cursor⟩)⟩
  · have hrest : t.out.src = rest := congrArg _ hk.out
    exact ⟨congrArg (·.inputs) hk.out, .inr (.inr ⟨e, hrest ▸ hsrc, he, hk.cursor⟩)⟩

/-- The states with src_ready = 1 are those other than IDLE and EXEC (R64). -/
theorem srcReady_iff (s : State) : srcReady s = true ↔ s.eng.fsm ≠ .idle ∧ s.eng.fsm ≠ .exec := by
  unfold srcReady
  cases s.eng.fsm <;> simp [Fsm.reading]

/-- Settles O30: the event taken is the first offered, and the other fields of `out` are kept. -/
theorem engineTakesOnlyOfferedEvents : Obligations.EngineTakesOnlyOfferedEvents := by
  refine ⟨fun s hr t h => (kept_of_not_reading hr h).out, fun s => engineStep_of_empty,
    fun s t e rest hr hsrc h => ?_, srcReady_iff⟩
  obtain ⟨hnone, -⟩ | ⟨b, rest', hsrc', hmove⟩ | ⟨e', rest', hsrc', -, rfl⟩ := engineStep_reading_cases hr h
  · simp [hnone] at hsrc
  · rw [hsrc, List.cons.injEq] at hsrc'
    exact hsrc'.2 ▸ hmove.kept.out
  · rw [hsrc, List.cons.injEq] at hsrc'
    exact hsrc'.2 ▸ (kept_endStream ..).out

/-! ## The outcomes of a READ_NEXT -/

/-- A running READ_NEXT reports nothing yet (R183). -/
theorem Running.report {s : State} (h : Running s) :
    readReport s = ⟨false, .none, .none, false, s.regs.frameCnt⟩ := by
  rw [readReport, h.done, h.outcome, h.code, h.fv]

/-- What an engine step makes of a running READ_NEXT (R183, R184, R211). -/
inductive ReadResult (s t : State) : Prop
  | running (hreading : t.eng.fsm.reading = true)
      (ht : readReport t = ⟨false, .none, .none, false, s.regs.frameCnt⟩)
  | failed (hidle : t.eng.fsm = .idle) (hraise : s.ctrl.policy = .raise) (c : ErrCode)
      (hcode : c ∈ recoverableCodes) (ht : readReport t = ⟨true, .error, c, false, s.regs.frameCnt⟩)
  | delivered (hidle : t.eng.fsm = .idle)
      (ht : readReport t = ⟨true, .ok, .none, true, s.regs.frameCnt + 1#32⟩)
  | ended (hidle : t.eng.fsm = .idle)
      (ht : readReport t = ⟨true, .endOfStream, .none, false, s.regs.frameCnt⟩)
  | brokenOff (hidle : t.eng.fsm = .idle) (heos : t.eng.eos = true) (c : ErrCode)
      (hcode : c ∈ [ErrCode.eof, .sourceError])
      (ht : readReport t = ⟨true, .streamError, c, false, s.regs.frameCnt⟩)

/-- The result looks at the step's start only for the policy and the count of frames. -/
theorem ReadResult.congr {s s' t : State} (h : ReadResult s' t) (hctrl : s'.ctrl = s.ctrl)
    (hcnt : s'.regs.frameCnt = s.regs.frameCnt) : ReadResult s t := by
  cases h with
  | running hreading ht => exact .running hreading (hcnt ▸ ht)
  | failed hidle hraise c hcode ht => exact .failed hidle (hctrl ▸ hraise) c hcode (hcnt ▸ ht)
  | delivered hidle ht => exact .delivered hidle (hcnt ▸ ht)
  | ended hidle ht => exact .ended hidle (hcnt ▸ ht)
  | brokenOff hidle heos c hcode ht => exact .brokenOff hidle heos c hcode (hcnt ▸ ht)

/-- A decision on a byte, seen in the report (R149, R184, R185). -/
theorem ReadMove.result {s t : State} (m : ReadMove s t)
    (hs : readReport s = ⟨false, .none, .none, false, s.regs.frameCnt⟩) : ReadResult s t := by
  cases m with
  | goesOn hquiet hreading => exact .running hreading (hquiet.report.trans hs)
  | fails u c hquiet hraise hcode ht =>
    have hu := hquiet.report.trans hs
    simp only [readReport, ReadReport.mk.injEq] at hu
    exact .failed (by simp [ht]) hraise c hcode (by simp [ht, readReport, hu])
  | delivers u hquiet ht =>
    have hu := hquiet.report.trans hs
    simp only [readReport, ReadReport.mk.injEq] at hu
    exact .delivered (by simp [ht, deliver]) (by simp [ht, deliver, readReport, hu])

/-- The end of the stream, seen in the report: the clean end in SEEK after Eos, else a stream error (R152, R153). -/
theorem readResult_endStream {s : State}
    (hs : readReport s = ⟨false, .none, .none, false, s.regs.frameCnt⟩) (eof : Bool) :
    ReadResult s (endStream eof s) := by
  simp only [readReport, ReadReport.mk.injEq] at hs
  by_cases hseek : s.eng.fsm = .seek
  · cases eof with
    | true => exact .ended (by simp) (by simp [endStream, hseek, readReport, latchEos, hs])
    | false =>
      exact .brokenOff (by simp) (by simp) .sourceError (by decide)
        (by simp [endStream, hseek, readReport, latchEos, hs])
  · refine .brokenOff (by simp) (by simp) (if eof then .eof else .sourceError) ?_ ?_
    · cases eof <;> decide
    · simp [endStream, hseek, readReport, recordLength, latchEos, hs]

/-- Every engine step of a running READ_NEXT has one of the five results. -/
theorem readResult_of_engineStep {s t : State} (hrun : Running s) (hr : s.eng.fsm.reading = true)
    (h : engineStep s = .next t) : ReadResult s t := by
  have hs := hrun.report
  obtain ⟨-, rfl⟩ | ⟨b, rest, -, hmove⟩ | ⟨e, rest, -, -, rfl⟩ := engineStep_reading_cases hr h
  · exact .running hr hs
  · exact (hmove.result hs).congr rfl rfl
  · exact (readResult_endStream (s := withSrc rest s) hs _).congr rfl rfl

/-- Settles O54: each result's flags, and the state that goes with them. -/
theorem readOutcomesByPolicy : Obligations.ReadOutcomesByPolicy := by
  intro s t hinv hr h
  cases readResult_of_engineStep (hinv.running hr) hr h <;>
    rename_i ht <;> simp only [readReport, ReadReport.mk.injEq] at ht <;> obtain ⟨hdone, hout, hcode, -⟩ := ht
  case running hreading =>
    have hne : t.eng.fsm ≠ .idle := by intro hi; simp [hi, Fsm.reading] at hreading
    simp [hdone, hout, hne]
  case failed hidle hraise c hc =>
    rw [← hcode, recoverableCodes] at hc
    simpa [hdone, hout, hidle, hraise] using hc
  case delivered hidle => simp [hdone, hout, hidle]
  case ended hidle => simp [hdone, hout, hidle]
  case brokenOff hidle heos c hc =>
    rw [← hcode] at hc
    simpa [hdone, hout, hidle, heos] using hc

/-- Settles O53: only a delivery reports OK, and only it counts a frame and sets FRAME_VALID. -/
theorem frameCountCountsDeliveries : Obligations.FrameCountCountsDeliveries := by
  intro s t hinv hr h
  cases readResult_of_engineStep (hinv.running hr) hr h <;>
    rename_i ht <;> simp only [readReport, ReadReport.mk.injEq] at ht <;>
    obtain ⟨-, hout, -, hvalid, hcnt⟩ := ht
  case delivered hidle => simp [hout, hvalid, hcnt, hidle]
  case running | failed | ended | brokenOff => simp [hout, hvalid, hcnt]

/-! ## Termination -/

theorem endStream_done (eof : Bool) (s : State) : (endStream eof s).status.done = true := by
  unfold endStream
  split
  · split <;> simp
  · simp

/-- A byte taken by a running READ_NEXT does not end the stream, and a READ_NEXT that stops reading is done. -/
theorem ReadMove.reading_or_done {s t : State} (m : ReadMove s t) :
    t.eng.fsm.reading = true ∨ t.eng.fsm = .idle ∧ t.status.done = true := by
  cases m with
  | goesOn _ hreading => exact .inl hreading
  | fails u c _ _ _ ht => exact .inr (by simp [ht])
  | delivers u _ ht => exact .inr (by simp [ht, deliver])

/-- Settles O55, by induction on the offered bytes: a byte's step goes on with fewer bytes or completes; the end's
step completes. -/
theorem readNextTerminates : Obligations.ReadNextTerminates := by
  intro s l e rest hinv hr he hsrc
  induction l generalizing s with
  | nil =>
    have hstep := engineStep_end hr hsrc he
    refine ⟨1, _, le_rfl, by simp only [engineRun, hstep]; rfl, by simp, ?_, .inl ⟨by simp, ?_⟩⟩
    · exact endStream_done ..
    · exact congrArg Outside.src (kept_endStream _ (withSrc rest s)).out
  | cons b l ih =>
    obtain ⟨t, ht, hinv'⟩ := hinv.engineStep
    have hmove : ReadMove (countByte (withSrc (l.map .byte ++ e :: rest) s)) t := by
      rw [engineStep_of_offered hr hsrc] at ht
      exact readMove_of_takeEvent (s := withSrc _ s) hr ht
    have hleft : t.out.src = l.map .byte ++ e :: rest := congrArg Outside.src hmove.kept.out
    obtain hreading | ⟨hidle, hdone⟩ := hmove.reading_or_done
    · obtain ⟨n, u, hn, hrun, hidle, hdone, hend⟩ := ih t hinv' hreading hleft
      refine ⟨n + 1, u, Nat.succ_le_succ hn, by rw [engineRun, ht]; exact hrun, hidle, hdone, ?_⟩
      exact hend.imp_right fun ⟨heos, l', hl', hsrc'⟩ => ⟨heos, l', hl'.trans (List.suffix_cons b l), hsrc'⟩
    · have heos : t.eng.eos = false := hmove.kept.eos.trans (hinv.running hr).eos
      refine ⟨1, t, Nat.succ_pos _, by rw [engineRun, ht]; rfl, hidle, hdone, ?_⟩
      exact .inr ⟨heos, l, List.suffix_cons b l, hleft⟩

/-! ## A command in EXEC -/

/-- A completed EXEC command (R113, R126, R127, R181). -/
theorem completeChecked_done (ok : Bool) (lo hi : Word) (s : State) :
    let u := completeChecked ok lo hi s
    u.eng.fsm = .idle ∧ u.status.done = true ∧ u.mem = s.mem ∧ u.out = s.out := by
  cases ok <;> simp [completeChecked, failRange]

/-- While its latency passes a command in EXEC changes only the count of the steps left (R248). -/
theorem engineRun_exec_waits {k : Nat} {s : State} {o : Op} (hexec : s.eng.fsm = .exec)
    (hop : s.eng.op = some o) (hk : k ≤ s.free.work) :
    engineRun k s = .next { s with free := { s.free with work := s.free.work - k } } := by
  induction k generalizing s with
  | zero => rfl
  | succ k ih =>
    obtain ⟨n, hn⟩ : ∃ n, s.free.work = n + 1 := Nat.exists_eq_succ_of_ne_zero (by omega)
    have hstep : engineStep s = .next { s with free := { s.free with work := n } } := by
      simp [engineStep, hexec, execStep, hop, hn]
    rw [engineRun, hstep]
    simp only
    rw [ih (s := { s with free := { s.free with work := n } }) hexec hop (by simp only; omega)]
    simp [hn]

/-- Settles O11: the latency's steps wait, and the one after them completes. -/
theorem execCompletesAfterItsLatency : Obligations.ExecCompletesAfterItsLatency := by
  intro s o hexec hop hdone
  constructor
  · intro k hk
    exact ⟨_, engineRun_exec_waits hexec hop hk, hexec, hdone, rfl, rfl, rfl⟩
  · refine ⟨_, engineRun_of_exec hexec hop rfl, ?_⟩
    obtain ⟨ok, lo, hi, h⟩ := finishExec_eq_completeChecked o { s with free := { s.free with work := 0 } }
    rw [h]
    exact completeChecked_done ok lo hi _

/-! ## The state graph (R140) -/

theorem recoverable_fsm (c : ErrCode) (s : State) : (recoverable c s).eng.fsm ∈ [Fsm.seek, .idle] := by
  obtain ⟨-, h⟩ | ⟨-, h⟩ := recoverable_cases c s <;> rw [h]
  · simp
  · simp [backToSeek]

theorem strictError_fsm (s : State) : (strictError s).eng.fsm ∈ [Fsm.seek, .idle] := recoverable_fsm ..

theorem crcError_fsm (s : State) : (crcError s).eng.fsm ∈ [Fsm.seek, .idle] := recoverable_fsm ..

theorem enterAuth_fsm (s : State) : (enterAuth s).eng.fsm ∈ [Fsm.auth, .crc] := by
  simp only [enterAuth]
  split <;> simp

theorem payloadDone_fsm (s : State) : (payloadDone s).eng.fsm ∈ [Fsm.auth, .crc, .seek, .idle] := by
  unfold payloadDone
  split
  · split
    · exact List.mem_append_right [Fsm.auth, .crc] (strictError_fsm _)
    · exact List.mem_append_left [Fsm.seek, .idle] (enterAuth_fsm _)
  · exact List.mem_append_left [Fsm.seek, .idle] (enterAuth_fsm s)

/-- Without the extension there is no auth length, and the trailer follows the payload (R94, R147). -/
theorem payloadDone_of_not_eaf {s : State} (h : s.eng.fEaf = false) :
    payloadDone s = enterChunk .crc (crcBytes s.eng.fCt) (setAuth 0 s) := by
  simp [payloadDone, ealUnmapped, enterAuth, authLen, h]

theorem pdDone_fsm (s : State) : (pdDone s).eng.fsm ∈ [Fsm.payload, .auth, .crc, .seek, .idle] := by
  unfold pdDone enterPayload
  split
  · exact List.mem_cons_self
  · exact List.mem_cons_of_mem _ (payloadDone_fsm _)

theorem enterExtension_fsm (s : State) : (enterExtension s).eng.fsm ∈ [Fsm.pdEa, .payload, .crc] := by
  cases heaf : s.eng.fEaf with
  | true => simp [enterExtension_of_eaf heaf]
  | false =>
    rw [enterExtension_of_not_eaf heaf, pdDone, enterPayload]
    split
    · simp
    · rw [payloadDone_of_not_eaf (s := decodePd s) heaf]
      simp

theorem chunkEndPd_fsm (s : State) : (chunkEndPd s).eng.fsm ∈ [Fsm.pdTt, .pdEa, .payload, .crc] := by
  unfold chunkEndPd
  split
  · exact List.mem_cons_self
  · exact List.mem_cons_of_mem _ (enterExtension_fsm _)

theorem chunkEndCrc_fsm (s : State) : (chunkEndCrc s).eng.fsm ∈ [Fsm.seek, .idle] := by
  unfold chunkEndCrc
  split
  · exact crcError_fsm _
  · simp [deliver]

/-- The transitions of R140, with those that a zero-length payload decides at once (R151, R157). -/
def fsmEdges : List (Fsm × Fsm) :=
  [(.exec, .idle), (.seek, .fs), (.seek, .idle), (.fs, .pd), (.fs, .idle), (.pd, .pdTt), (.pd, .pdEa),
   (.pd, .payload), (.pd, .crc), (.pd, .idle), (.pdTt, .pdEa), (.pdTt, .payload), (.pdTt, .crc), (.pdTt, .idle),
   (.pdEa, .payload), (.pdEa, .auth), (.pdEa, .crc), (.pdEa, .seek), (.pdEa, .idle), (.payload, .auth),
   (.payload, .crc), (.payload, .seek), (.payload, .idle), (.auth, .crc), (.auth, .idle), (.crc, .seek),
   (.crc, .idle)]

/-- The end of a chunk follows the graph. -/
theorem chunkEnd_fsm {s : State} (hf : s.eng.fsm.inFrame = true) :
    (s.eng.fsm, (chunkEnd s).eng.fsm) ∈ fsmEdges := by
  cases hfsm : s.eng.fsm
  case fs =>
    rw [chunkEnd_of_fs hfsm, chunkEndFs]
    simp [fsmEdges]
  case pd =>
    have hedges : ∀ f ∈ [Fsm.pdTt, .pdEa, .payload, .crc], (Fsm.pd, f) ∈ fsmEdges := by decide
    rw [chunkEnd_of_pd hfsm]
    exact hedges _ (chunkEndPd_fsm s)
  case pdTt =>
    have hedges : ∀ f ∈ [Fsm.pdEa, .payload, .crc], (Fsm.pdTt, f) ∈ fsmEdges := by decide
    rw [chunkEnd_of_pdTt hfsm]
    exact hedges _ (enterExtension_fsm s)
  case pdEa =>
    have hedges : ∀ f ∈ [Fsm.payload, .auth, .crc, .seek, .idle], (Fsm.pdEa, f) ∈ fsmEdges := by decide
    rw [chunkEnd_of_pdEa hfsm]
    exact hedges _ (pdDone_fsm s)
  case payload =>
    have hedges : ∀ f ∈ [Fsm.auth, .crc, .seek, .idle], (Fsm.payload, f) ∈ fsmEdges := by decide
    rw [chunkEnd_of_payload hfsm]
    exact hedges _ (payloadDone_fsm s)
  case auth =>
    rw [chunkEnd_of_auth hfsm]
    simp [fsmEdges]
  case crc =>
    have hedges : ∀ f ∈ [Fsm.seek, .idle], (Fsm.crc, f) ∈ fsmEdges := by decide
    rw [chunkEnd_of_crc hfsm]
    exact hedges _ (chunkEndCrc_fsm s)
  case idle | exec | seek => simp [hfsm, Fsm.inFrame] at hf

/-- From every state but IDLE the graph leads to IDLE. -/
theorem idle_edge : ∀ f : Fsm, f ≠ .idle → (f, Fsm.idle) ∈ fsmEdges := by
  intro f
  cases f <;> decide

theorem seekByte_fsm {s : State} (h : s.eng.fsm = .seek) (b : Byte) :
    (seekByte b s).eng.fsm ∈ [Fsm.fs, .seek, .idle] := by
  unfold seekByte
  split
  · simp [startAttempt]
  · split
    · exact List.mem_cons_of_mem _ (recoverable_fsm ..)
    · simp [h]

/-- An event taken leaves the state or follows the graph. -/
theorem takeEvent_fsm {s t : State} (hr : s.eng.fsm.reading = true) {e : SrcEvent}
    (h : takeEvent e s = .next t) : t.eng.fsm = s.eng.fsm ∨ (s.eng.fsm, t.eng.fsm) ∈ fsmEdges := by
  have hidle : s.eng.fsm ≠ .idle := by intro hi; simp [hi, Fsm.reading] at hr
  cases e with
  | byte b =>
    rw [takeEvent] at h
    split at h
    case isTrue hseek =>
      have hedges : ∀ f ∈ [Fsm.fs, .seek, .idle], f = .seek ∨ (Fsm.seek, f) ∈ fsmEdges := by decide
      cases h
      rw [hseek]
      exact hedges _ (seekByte_fsm hseek b)
    case isFalse hseek =>
      have hf := (seek_or_inFrame hr).resolve_left hseek
      unfold chunkByte at h
      split at h <;> cases h
      split
      · exact .inr (chunkEnd_fsm (s := takeChunkByte b s) hf)
      · exact .inl rfl
  | eos =>
    cases h
    exact .inr (by simpa using idle_edge _ hidle)
  | err =>
    cases h
    exact .inr (by simpa using idle_edge _ hidle)

/-- An engine step in EXEC waits there or completes (R248). -/
theorem execStep_fsm {s t : State} (h : execStep s = .next t) : t.eng.fsm = s.eng.fsm ∨ t.eng.fsm = .idle := by
  unfold execStep at h
  split at h
  case h_1 => cases h
  case h_2 o _ =>
    split at h <;> cases h
    · obtain ⟨ok, lo, hi, heq⟩ := finishExec_eq_completeChecked o s
      exact .inr (heq ▸ (completeChecked_done ok lo hi s).1)
    · exact .inl rfl

/-- Settles O29: an engine step in IDLE stays, in EXEC waits or completes, in a reading state takes an event. -/
theorem stateGraphIsClosed : Obligations.StateGraphIsClosed := by
  intro s t _ h
  cases hr : s.eng.fsm.reading with
  | true =>
    cases hsrc : s.out.src with
    | nil =>
      rw [engineStep_of_empty hr hsrc] at h
      cases h
      exact .inl rfl
    | cons e rest =>
      rw [engineStep_of_offered hr hsrc] at h
      exact takeEvent_fsm (s := withSrc rest s) hr h
  | false =>
    cases hfsm : s.eng.fsm <;> simp [hfsm, Fsm.reading] at hr
    case idle =>
      rw [engineStep_of_idle hfsm] at h
      cases h
      exact .inl hfsm
    case exec =>
      rw [engineStep, hfsm] at h
      obtain hstay | hidle := execStep_fsm h
      · exact .inl (hstay.trans hfsm)
      · exact .inr (by rw [hidle]; decide)

/-! ## Independence of the operand registers (R46, R183) -/

/-- The operand registers replaced. -/
def setOperands (a0 a1 ex dl : Word) (s : State) : State :=
  { s with regs := { s.regs with arg0 := a0, arg1 := a1, expected := ex, dbufLen := dl } }

section setOperands

variable (a0 a1 ex dl : Word) (s : State)

@[simp] theorem setOperands_eng : (setOperands a0 a1 ex dl s).eng = s.eng := rfl

@[simp] theorem setOperands_ctrl : (setOperands a0 a1 ex dl s).ctrl = s.ctrl := rfl

theorem complete_setOperands (o : CmdOutcome) (c : ErrCode) :
    complete o c (setOperands a0 a1 ex dl s) = setOperands a0 a1 ex dl (complete o c s) := by
  cases o <;> rfl

theorem recoverable_setOperands (c : ErrCode) :
    recoverable c (setOperands a0 a1 ex dl s) = setOperands a0 a1 ex dl (recoverable c s) := by
  simp only [recoverable, setOperands_ctrl]
  split
  · exact complete_setOperands ..
  · rfl
  · rfl

theorem enterAuth_setOperands :
    enterAuth (setOperands a0 a1 ex dl s) = setOperands a0 a1 ex dl (enterAuth s) := by
  simp only [enterAuth, apply_ite (setOperands a0 a1 ex dl)]
  rfl

theorem strictError_setOperands :
    strictError (setOperands a0 a1 ex dl s) = setOperands a0 a1 ex dl (strictError s) :=
  recoverable_setOperands a0 a1 ex dl { s with
    regs := { s.regs with authLen := 0#32, frameLen := BitVec.ofNat 32 s.eng.pos } } _

theorem payloadDone_setOperands :
    payloadDone (setOperands a0 a1 ex dl s) = setOperands a0 a1 ex dl (payloadDone s) := by
  have hun : countUnmapped (setOperands a0 a1 ex dl s) = setOperands a0 a1 ex dl (countUnmapped s) := rfl
  simp only [payloadDone, hun, strictError_setOperands, enterAuth_setOperands,
    apply_ite (setOperands a0 a1 ex dl)]
  rfl

theorem pdDone_setOperands : pdDone (setOperands a0 a1 ex dl s) = setOperands a0 a1 ex dl (pdDone s) := by
  have hpd : decodePd (setOperands a0 a1 ex dl s) = setOperands a0 a1 ex dl (decodePd s) := rfl
  simp only [pdDone, enterPayload, hpd, payloadDone_setOperands, apply_ite (setOperands a0 a1 ex dl)]
  rfl

theorem enterExtension_setOperands :
    enterExtension (setOperands a0 a1 ex dl s) = setOperands a0 a1 ex dl (enterExtension s) := by
  simp only [enterExtension, pdDone_setOperands, apply_ite (setOperands a0 a1 ex dl)]
  rfl

theorem chunkEndPd_setOperands :
    chunkEndPd (setOperands a0 a1 ex dl s) = setOperands a0 a1 ex dl (chunkEndPd s) := by
  have httt : latchTtt (setOperands a0 a1 ex dl s) = setOperands a0 a1 ex dl (latchTtt s) := rfl
  simp only [chunkEndPd, httt, enterExtension_setOperands, apply_ite (setOperands a0 a1 ex dl)]
  rfl

theorem crcError_setOperands :
    crcError (setOperands a0 a1 ex dl s) = setOperands a0 a1 ex dl (crcError s) :=
  recoverable_setOperands a0 a1 ex dl { s with
    regs := { s.regs with crcErrCnt := s.regs.crcErrCnt + 1#32 } } _

theorem chunkEndCrc_setOperands :
    chunkEndCrc (setOperands a0 a1 ex dl s) = setOperands a0 a1 ex dl (chunkEndCrc s) := by
  have hcrc : recordCrc (setOperands a0 a1 ex dl s) = setOperands a0 a1 ex dl (recordCrc s) := rfl
  simp only [chunkEndCrc, hcrc, crcError_setOperands, apply_ite (setOperands a0 a1 ex dl)]
  rfl

theorem chunkEnd_setOperands :
    chunkEnd (setOperands a0 a1 ex dl s) = setOperands a0 a1 ex dl (chunkEnd s) := by
  cases hfsm : s.eng.fsm <;> simp only [chunkEnd, setOperands_eng, hfsm]
  case pd => exact chunkEndPd_setOperands ..
  case pdTt => exact enterExtension_setOperands ..
  case pdEa => exact pdDone_setOperands ..
  case payload => exact payloadDone_setOperands ..
  case crc => exact chunkEndCrc_setOperands ..
  case fs | auth => rfl

theorem seekByte_setOperands (b : Byte) :
    seekByte b (setOperands a0 a1 ex dl s) = setOperands a0 a1 ex dl (seekByte b s) := by
  have hdiscard : countDiscard (countByte (setOperands a0 a1 ex dl s)) =
      setOperands a0 a1 ex dl (countDiscard (countByte s)) := rfl
  simp only [seekByte, hdiscard, recoverable_setOperands, apply_ite (setOperands a0 a1 ex dl)]
  rfl

theorem endStream_setOperands (eof : Bool) :
    endStream eof (setOperands a0 a1 ex dl s) = setOperands a0 a1 ex dl (endStream eof s) := by
  have heos : latchEos (setOperands a0 a1 ex dl s) = setOperands a0 a1 ex dl (latchEos s) := rfl
  simp only [endStream, heos, complete_setOperands, apply_ite (setOperands a0 a1 ex dl)]
  rfl

/-- An event's step on a state with other operands gives the same, with the other operands. -/
theorem takeEvent_setOperands {s t : State} (e : SrcEvent) (h : takeEvent e s = .next t) :
    takeEvent e (setOperands a0 a1 ex dl s) = .next (setOperands a0 a1 ex dl t) := by
  cases e with
  | byte b =>
    have htake : takeChunkByte b (setOperands a0 a1 ex dl s) =
        setOperands a0 a1 ex dl (takeChunkByte b s) := rfl
    by_cases hseek : s.eng.fsm = .seek
    · rw [takeEvent, if_pos hseek] at h
      cases h
      exact (if_pos hseek).trans (congrArg _ (seekByte_setOperands ..))
    · rw [takeEvent, if_neg hseek, chunkByte] at h
      split at h <;> cases h
      next hok =>
        refine (if_neg hseek).trans ((if_neg hok).trans (congrArg _ ?_))
        simp only [htake, chunkEnd_setOperands, apply_ite (setOperands a0 a1 ex dl)]
        rfl
  | eos =>
    cases h
    rw [takeEvent, endStream_setOperands]
  | err =>
    cases h
    rw [takeEvent, endStream_setOperands]

end setOperands

/-- Settles O32: the step of a reading state commutes with the replacement, event by event. -/
theorem readIgnoresOperands : Obligations.ReadIgnoresOperands := by
  intro s t a0 a1 ex dl hr h
  change engineStep (setOperands a0 a1 ex dl s) = .next (setOperands a0 a1 ex dl t)
  cases hsrc : s.out.src with
  | nil =>
    rw [engineStep_of_empty hr hsrc] at h
    cases h
    exact engineStep_of_empty hr hsrc
  | cons e rest =>
    rw [engineStep_of_offered hr hsrc] at h
    rw [engineStep_of_offered (s := setOperands a0 a1 ex dl s) hr hsrc]
    exact takeEvent_setOperands a0 a1 ex dl (s := withSrc rest s) e h

end Sys2Proof.Machine
end

section
/-!
The command word (spec/30_encoding.md R80 to R86): the decoder on a word's low byte and high bits, its inverse, and
the host pseudo-assembly.
-/

namespace Sys2Proof

/-! ## A word by its high bits and its low byte -/

/-- Every row's mask keeps the high bits, so a word with one of them set selects no row (R82, R83). -/
theorem decode_of_high {w : Word} (h : w.extractLsb' 8 24 ≠ 0#24) : decode w = .error .reservedHighBits := by
  have hnone : opcodeRows.find? (fun r => w &&& r.mask == r.pattern) = none := by
    have hrows : ∀ r ∈ opcodeRows, r.mask = opcodeMask ∧ r.pattern.extractLsb' 8 24 = 0#24 := by decide
    have hmask : opcodeMask.extractLsb' 8 24 = BitVec.allOnes 24 := by decide
    refine List.find?_eq_none.mpr fun r hr heq => h ?_
    obtain ⟨hm, hp⟩ := hrows r hr
    have hbits := congrArg (BitVec.extractLsb' 8 24) (eq_of_beq heq)
    rwa [BitVec.extractLsb'_and, hm, hp, hmask, BitVec.and_allOnes] at hbits
  simp [decode, hnone, rejectReason, h]

theorem high_eq_zero_iff (w : Word) : w.extractLsb' 8 24 = 0#24 ↔ w.toNat / 2 ^ 8 = 0 := by
  have hw := w.isLt
  rw [← BitVec.toNat_inj, BitVec.extractLsb'_toNat, BitVec.toNat_zero, Nat.shiftRight_eq_div_pow]
  omega

/-- A word without high bits is its low byte. -/
theorem eq_setWidth_of_high_zero {w : Word} (h : w.toNat / 2 ^ 8 = 0) : w = (w.setWidth 8).setWidth 32 := by
  apply BitVec.eq_of_toNat_eq
  simp only [BitVec.toNat_setWidth]
  omega

/-- The decoder on a word without high bits: exactly the legal bytes decode, each to the command it encodes
(R82, R83). -/
theorem encode_of_decode_lowByte : ∀ b : Byte,
    (decode (b.setWidth 32)).toOption.map encode =
      if b.toNat / 2 ^ 5 % 2 = 0 ∧ b.toNat % 2 ^ 4 ≤ 6 then some (b.setWidth 32) else none := by
  decide

/-- An illegal byte is rejected for bit 5 exactly when it is set, and never for the high bits. -/
theorem rejection_of_lowByte : ∀ b : Byte,
    (decode (b.setWidth 32) = .error .reservedBit5 ↔ b.toNat / 2 ^ 5 % 2 ≠ 0)
      ∧ decode (b.setWidth 32) ≠ .error .reservedHighBits := by
  decide

/-! ## Decode and encode -/

/-- A word R83 does not call illegal. -/
def LegalWord (w : Word) : Prop := w.toNat / 2 ^ 8 = 0 ∧ w.toNat / 2 ^ 5 % 2 = 0 ∧ w.toNat % 2 ^ 4 ≤ 6

/-- The decoder on a word without high bits, in terms of the word. -/
theorem encode_of_decode_of_high_zero {w : Word} (h : w.toNat / 2 ^ 8 = 0) :
    (decode w).toOption.map encode =
      if w.toNat / 2 ^ 5 % 2 = 0 ∧ w.toNat % 2 ^ 4 ≤ 6 then some w else none := by
  have hlow : (w.setWidth 8).toNat = w.toNat := by rw [BitVec.toNat_setWidth]; omega
  have hb := encode_of_decode_lowByte (w.setWidth 8)
  rwa [← eq_setWidth_of_high_zero h, hlow] at hb

/-- A word that decodes is legal, and it is the encoding of its command. -/
theorem legal_of_decode {w : Word} {i : Instr} (h : decode w = .ok i) : LegalWord w ∧ encode i = w := by
  by_cases hhigh : w.toNat / 2 ^ 8 = 0
  · have hb := encode_of_decode_of_high_zero hhigh
    rw [h] at hb
    split at hb
    case isTrue hlow => exact ⟨⟨hhigh, hlow⟩, Option.some.inj hb⟩
    case isFalse => cases hb
  · rw [decode_of_high (mt (high_eq_zero_iff w).mp hhigh)] at h
    cases h

/-- A legal word decodes. -/
theorem decode_of_legal {w : Word} (h : LegalWord w) : ∃ i, decode w = .ok i := by
  obtain ⟨hhigh, hlow⟩ := h
  have hb := encode_of_decode_of_high_zero hhigh
  rw [if_pos hlow] at hb
  cases hw : decode w with
  | ok i => exact ⟨i, rfl⟩
  | error r => rw [hw] at hb; cases hb

/-- An illegal word does not decode. -/
theorem decode_of_illegal {w : Word} (h : ¬ LegalWord w) : ∃ r, decode w = .error r := by
  cases hw : decode w with
  | ok i => exact absurd (legal_of_decode hw).1 h
  | error r => exact ⟨r, rfl⟩

/-- Every command's word carries its fields (R81, R82). -/
theorem wordFields (i : Instr) : Laws.WordFields.Statement i := by
  cases i with
  | nop b c => exact Laws.WordFields.nop b c
  | readNext b c => exact Laws.WordFields.readNext b c
  | extract b c => exact Laws.WordFields.extract b c
  | crcCompute b c => exact Laws.WordFields.crcCompute b c
  | crcValidate b c => exact Laws.WordFields.crcValidate b c
  | abort b c => exact Laws.WordFields.abort b c
  | softReset b c => exact Laws.WordFields.softReset b c

/-- The opcode of a decoded word is its bits [3:0] (R82). -/
theorem opcode_of_decode {w : Word} {i : Instr} (h : decode w = .ok i) : opcode i = opField w := by
  obtain ⟨-, rfl⟩ := legal_of_decode h
  exact (wordFields i).2.1.symm

/-- A command is its opcode and its two fields. -/
theorem instr_eq_of_fields {i j : Instr} (hop : opcode i = opcode j) (hsrc : instrSrc i = instrSrc j)
    (hcrcw : instrCrcw i = instrCrcw j) : i = j := by
  cases i <;> cases j <;> simp_all [opcode, instrSrc, instrCrcw]

/-- No two commands share a word (R81). -/
theorem encode_injective {i j : Instr} (h : encode i = encode j) : i = j := by
  obtain ⟨-, hop, hsrc, hcrcw⟩ := wordFields i
  obtain ⟨-, hop', hsrc', hcrcw'⟩ := wordFields j
  rw [h] at hop hsrc hcrcw
  exact instr_eq_of_fields (hop.symm.trans hop') (hsrc.symm.trans hsrc') (hcrcw.symm.trans hcrcw')

/-- A command's word is legal (R83). -/
theorem legal_encode (i : Instr) : LegalWord (encode i) := by
  obtain ⟨hok, -⟩ := wordFields i
  simpa [CommandWord.ok, LegalWord, and_assoc] using hok

theorem decode_encode (i : Instr) : decode (encode i) = .ok i := by
  obtain ⟨j, hj⟩ := decode_of_legal (legal_encode i)
  rw [hj, encode_injective (legal_of_decode hj).2]

/-- Settles O3: a decoded word is the encoding of its command, and encodings are distinct. -/
theorem encodeDecodeInverse : Obligations.EncodeDecodeInverse :=
  ⟨decode_encode, fun _ _ h => (legal_of_decode h).2⟩

/-- Settles O1: the rows of the opcode map at the written-out words. -/
theorem decodeKnownWords : Obligations.DecodeKnownWords := by
  unfold Obligations.DecodeKnownWords
  decide

/-- A word is rejected for its high bits exactly when one is set. -/
theorem decode_reservedHighBits_iff (w : Word) :
    decode w = .error .reservedHighBits ↔ w.toNat / 2 ^ 8 ≠ 0 := by
  refine ⟨fun h hhigh => ?_, fun h => decode_of_high (mt (high_eq_zero_iff w).mp h)⟩
  rw [eq_setWidth_of_high_zero hhigh] at h
  exact (rejection_of_lowByte (w.setWidth 8)).2 h

/-- A word is rejected for bit 5 exactly when the high bits are 0 and it is set. -/
theorem decode_reservedBit5_iff (w : Word) :
    decode w = .error .reservedBit5 ↔ w.toNat / 2 ^ 8 = 0 ∧ w.toNat / 2 ^ 5 % 2 ≠ 0 := by
  by_cases hhigh : w.toNat / 2 ^ 8 = 0
  · have hlow : (w.setWidth 8).toNat = w.toNat := by rw [BitVec.toNat_setWidth]; omega
    have hb := (rejection_of_lowByte (w.setWidth 8)).1
    rw [← eq_setWidth_of_high_zero hhigh, hlow] at hb
    exact hb.trans ⟨fun h5 => ⟨hhigh, h5⟩, And.right⟩
  · rw [(decode_reservedHighBits_iff w).mpr hhigh]
    exact ⟨nofun, fun h => absurd h.1 hhigh⟩

/-- Settles O2: the legal words, their opcode, and the two names of rejection. -/
theorem decodeAcceptsExactlyLegalWords : Obligations.DecodeAcceptsExactlyLegalWords := by
  intro w
  refine ⟨⟨fun ⟨i, h⟩ => (legal_of_decode h).1, decode_of_legal⟩, fun i h => ?_,
    decode_reservedHighBits_iff w, decode_reservedBit5_iff w⟩
  simp [opcode_of_decode h, opField]

end Sys2Proof

namespace Sys2Proof.Machine

/-! ## The host pseudo-assembly -/

/-- A buffer byte's offset, written as a sum of offsets (R60, R86). -/
theorem bufOff_eq_add (b : Source) (i : BitVec 11) :
    bufOff b i = BitVec.ofNat 14 (bufBase b) + i.setWidth 14 := by
  have hi := i.isLt
  have hbase : bufBase b ≤ 0x2000 := by cases b <;> decide
  apply BitVec.eq_of_toNat_eq
  simp only [bufOff, BitVec.toNat_ofNat, BitVec.toNat_add, BitVec.toNat_setWidth]
  omega

theorem encode_extract_word (b : Source) :
    encode (.extract b .crc8) = BitVec.ofNat 32 (2 + 16 * sourceBit b) :=
  (legal_of_decode (decode_extract_word b)).2

theorem encode_crcCompute_word (b : Source) (c : CrcSel) :
    encode (.crcCompute b c) = BitVec.ofNat 32 (3 + 16 * sourceBit b + 64 * crcCode c) :=
  (legal_of_decode (decode_crcCompute_word b c)).2

theorem encode_crcValidate_word (b : Source) (c : CrcSel) :
    encode (.crcValidate b c) = BitVec.ofNat 32 (4 + 16 * sourceBit b + 64 * crcCode c) :=
  (legal_of_decode (decode_crcValidate_word b c)).2

/-- Settles O33: each form's offsets and its command word as a number. -/
theorem pseudoAssemblyExpands : Obligations.PseudoAssemblyExpands := by
  intro b w x y z i v
  refine ⟨rfl, rfl, ?_, ?_, ?_, rfl, rfl, rfl, fun n => rfl, ?_, ?_, ?_, ?_⟩
  · rw [← encode_extract_word]; rfl
  · rw [← encode_crcCompute_word]; rfl
  · rw [← encode_crcValidate_word]; rfl
  · simp [expand, bufOff_eq_add, bufBase]
  · simp [expand, bufOff_eq_add, bufBase]
  · simp [expand, bufOff_eq_add, bufBase]
  · simp [expand, bufOff_eq_add, bufBase]

end Sys2Proof.Machine
end

section
/-!
The commands at their CMD write (spec/43_reader_control.md sections 1 and 2): what each command starts, changes and
leaves alone, and what no command but SOFT_RESET clears.
-/

namespace Sys2Proof.Machine

/-! ## A word written to CMD (R83, R180) -/

theorem busy_of_not_idle {s : State} (h : s.eng.fsm ≠ .idle) : busy s = true := decide_eq_true h

theorem cmdWrite_of_decode {w : Word} {i : Instr} (h : decode w = .ok i) (s : State) :
    cmdWrite w s = exec i s := by
  simp [cmdWrite, h]

theorem cmdWrite_of_illegal {w : Word} (h : ¬ LegalWord w) (s : State) :
    cmdWrite w s =
      .next (if busy s then setOvr s else complete .error .illegalCommand (beginCommand (opField w) s)) := by
  obtain ⟨r, hr⟩ := decode_of_illegal h
  simp [cmdWrite, hr]

/-- A 4-byte write to CMD is `cmdWrite` of its word (R25, R61). -/
theorem step_of_cmdWrite {s : State} {w : Word} {rest : List Input}
    (h : s.out.inputs = .write 0x004#14 4 w :: rest) : step s = cmdWrite w (s.pop rest) := by
  rw [step_of_write h, busWrite_reg (r := .cmd) (by decide)]
  rfl

/-- Settles O4: the write reaches CMD, and a legal word is its command. -/
theorem stepRunsDecodedCommand : Obligations.StepRunsDecodedCommand := by
  intro s w i rest hin hw
  rw [step_of_cmdWrite hin, cmdWrite_of_decode hw]
  rfl

/-- Settles O5: an illegal word has no command, and the two cases of BUSY remain. -/
theorem illegalWordReported : Obligations.IllegalWordReported := by
  intro s w rest hin hillegal
  rw [step_of_cmdWrite hin, cmdWrite_of_illegal hillegal]
  constructor
  · intro hidle
    rw [busy_of_idle (s := s.pop rest) hidle]
    simp [complete_cases, beginCommand, State.pop, engine_with_idle hidle, opField]
    decide
  · intro hbusy
    rw [if_pos (busy_of_not_idle (s := s.pop rest) hbusy)]
    rfl

/-- Settles O7: the start step before and after the end of the stream. -/
theorem readNextStarts : Obligations.ReadNextStarts := by
  intro s b c hidle
  constructor
  · intro heos
    rw [exec_readNext_of_not_ended hidle heos]
    rfl
  · intro heos
    rw [exec_readNext_of_ended hidle heos]
    simp [complete_cases, clearFrameFlags, beginCommand, engine_with_idle hidle]

/-- STATUS after SOFT_RESET does not depend on the state before it (R187). -/
theorem statusWord_softReset (s : State) : statusWord (softReset s) = 0x00060006#32 := by
  have hsame : statusWord (softReset s) = statusWord (softReset State.reset) := rfl
  rw [hsame]
  decide

/-- Settles O13: SOFT_RESET's next state, register by register. -/
theorem softResetEffect : Obligations.SoftResetEffect := by
  refine ⟨by decide, fun s b c => ⟨softReset s, rfl, statusWord_softReset s, fun r hctrl hstatus hpre => ?_, rfl,
    rfl, rfl, rfl, rfl, rfl, irq_complete ..⟩⟩
  cases r
  case ctrl => exact absurd rfl hctrl
  case status => exact absurd rfl hstatus
  case preamble => exact absurd rfl hpre
  all_goals rfl

/-! ## What no command but SOFT_RESET changes -/

/-- What a command's start and completion keep: CTRL, the buffers, the other agents, the cursor, ACCERR, every
register but FRAME_LEN and LAST_ERR, and `eos` once it is set. -/
structure CommandKeeps (s t : State) : Prop where
  ctrl : t.ctrl = s.ctrl
  mem : t.mem = s.mem
  out : t.out = s.out
  epoch : t.free.epoch = s.free.epoch
  regs : t.regs = { s.regs with frameLen := t.regs.frameLen, lastErr := t.regs.lastErr }
  cursor : t.eng.cursor = s.eng.cursor
  accErr : t.status.accErr = s.status.accErr
  eos : s.eng.eos = true → t.eng.eos = true

theorem CommandKeeps.trans {s t u : State} (h : CommandKeeps s t) (k : CommandKeeps t u) : CommandKeeps s u where
  ctrl := k.ctrl.trans h.ctrl
  mem := k.mem.trans h.mem
  out := k.out.trans h.out
  epoch := k.epoch.trans h.epoch
  regs := by rw [k.regs, h.regs]
  cursor := k.cursor.trans h.cursor
  accErr := k.accErr.trans h.accErr
  eos := k.eos ∘ h.eos

theorem commandKeeps_setOvr (s : State) : CommandKeeps s (setOvr s) :=
  ⟨rfl, rfl, rfl, rfl, rfl, rfl, rfl, id⟩

theorem commandKeeps_beginCommand (op : BitVec 4) (s : State) : CommandKeeps s (beginCommand op s) :=
  ⟨rfl, rfl, rfl, rfl, rfl, rfl, rfl, id⟩

theorem commandKeeps_complete (o : CmdOutcome) (c : ErrCode) (s : State) : CommandKeeps s (complete o c s) := by
  cases o <;> exact ⟨rfl, rfl, rfl, rfl, rfl, rfl, rfl, id⟩

theorem commandKeeps_latchEos (s : State) : CommandKeeps s (latchEos s) :=
  ⟨rfl, rfl, rfl, rfl, rfl, rfl, rfl, fun _ => rfl⟩

theorem commandKeeps_startExec (k : ExecKind) (op : BitVec 4) (b : Source) (c : CrcSel) (s : State) :
    CommandKeeps s (startExec k op b c s) := by
  unfold startExec
  split
  · exact commandKeeps_setOvr s
  · exact (commandKeeps_beginCommand op s).trans ⟨rfl, rfl, rfl, rfl, rfl, rfl, rfl, id⟩

theorem commandKeeps_startRead (s : State) : CommandKeeps s (startRead s) := by
  have hcleared : CommandKeeps s (clearFrameFlags s) := ⟨rfl, rfl, rfl, rfl, rfl, rfl, rfl, id⟩
  unfold startRead
  split
  · exact hcleared.trans (commandKeeps_complete ..)
  · exact hcleared.trans ⟨rfl, rfl, rfl, rfl, rfl, rfl, rfl, id⟩

theorem commandKeeps_endStream (eof : Bool) (s : State) : CommandKeeps s (endStream eof s) := by
  have hlen : CommandKeeps (latchEos s) (recordLength (latchEos s)) :=
    ⟨rfl, rfl, rfl, rfl, rfl, rfl, rfl, id⟩
  refine (commandKeeps_latchEos s).trans ?_
  unfold endStream
  split
  · split <;> exact commandKeeps_complete ..
  · exact hlen.trans (commandKeeps_complete ..)

/-- The frame of every command but SOFT_RESET. -/
theorem commandKeeps_of_exec {i : Instr} {s t : State} (hi : ∀ b c, i ≠ .softReset b c)
    (h : exec i s = .next t) : CommandKeeps s t := by
  cases i with
  | nop b c =>
    cases h
    split
    · exact commandKeeps_setOvr s
    · exact (commandKeeps_beginCommand ..).trans (commandKeeps_complete ..)
  | readNext b c =>
    cases h
    split
    · exact commandKeeps_setOvr s
    · exact (commandKeeps_beginCommand ..).trans (commandKeeps_startRead _)
  | extract b c => cases h; exact commandKeeps_startExec ..
  | crcCompute b c => cases h; exact commandKeeps_startExec ..
  | crcValidate b c => cases h; exact commandKeeps_startExec ..
  | abort b c =>
    cases h
    split
    · exact commandKeeps_endStream ..
    · split
      · exact commandKeeps_setOvr s
      · exact (commandKeeps_beginCommand ..).trans
          ((commandKeeps_latchEos _).trans (commandKeeps_complete ..))
  | softReset b c => exact absurd rfl (hi b c)

/-- SOFT_RESET or not (R187). -/
theorem softReset_or_not (i : Instr) : (∃ b c, i = .softReset b c) ∨ ∀ b c, i ≠ .softReset b c := by
  cases i with
  | softReset b c => exact .inl ⟨b, c, rfl⟩
  | _ => exact .inr nofun

/-- Settles O14: SOFT_RESET by its definition, the other commands by their common frame. -/
theorem commandsKeepMemoryAndOperands : Obligations.CommandsKeepMemoryAndOperands := by
  intro i s t h
  obtain ⟨b, c, rfl⟩ | hi := softReset_or_not i
  · cases h
    exact ⟨byteAt_congr rfl rfl, rfl, rfl, rfl, rfl, fun hne => absurd rfl (hne b c)⟩
  · obtain ⟨hctrl, hmem, hout, hepoch, hregs, hcursor, hacc, -⟩ := commandKeeps_of_exec hi h
    exact ⟨byteAt_congr hmem hepoch, hctrl, by rw [hout], by rw [hout], by rw [hout],
      fun _ => ⟨hregs, hcursor, hacc⟩⟩

/-- Settles O15: the ignored fields are no argument of what the commands run. -/
theorem ignoredFieldsDoNotMatter : Obligations.IgnoredFieldsDoNotMatter := by
  intro s b b' c c'
  refine ⟨rfl, rfl, rfl, rfl, fun o hk => ?_⟩
  simp only [finishExec, hk]
  rfl

/-! ## Commands while busy (R71, R244) -/

/-- While busy every command but SOFT_RESET, and ABORT outside EXEC, is refused with OVR. -/
theorem exec_of_busy {i : Instr} {s : State} (hbusy : busy s = true) (hreset : ∀ b c, i ≠ .softReset b c)
    (habort : s.eng.fsm = .exec ∨ ∀ b c, i ≠ .abort b c) : exec i s = .next (setOvr s) := by
  cases i with
  | nop b c => exact congrArg Host.Outcome.next (if_pos hbusy)
  | readNext b c => exact congrArg Host.Outcome.next (if_pos hbusy)
  | extract b c => exact congrArg Host.Outcome.next (if_pos hbusy)
  | crcCompute b c => exact congrArg Host.Outcome.next (if_pos hbusy)
  | crcValidate b c => exact congrArg Host.Outcome.next (if_pos hbusy)
  | abort b c => exact exec_abort_of_exec (habort.resolve_right fun h => h b c rfl) b c
  | softReset b c => exact absurd rfl (hreset b c)

/-- A command while busy is refused, or leaves the engine idle (R186, R187). -/
theorem refused_or_idle {i : Instr} {s t : State} (hbusy : busy s = true) (h : exec i s = .next t) :
    t = setOvr s ∨ t.eng.fsm = .idle := by
  obtain ⟨b, c, rfl⟩ | hreset := softReset_or_not i
  · cases h
    exact .inr rfl
  · by_cases habort : s.eng.fsm = .exec ∨ ∀ b c, i ≠ .abort b c
    · rw [exec_of_busy hbusy hreset habort] at h
      cases h
      exact .inl rfl
    · simp only [not_or, not_forall, not_not] at habort
      obtain ⟨hexec, b, c, rfl⟩ := habort
      exact .inr (exec_abort_ends_stream hexec h).1

/-! ## The error policy and the auth length table -/

/-- Settles O18: the three policies, and what `complete` and the return to SEEK both keep. -/
theorem recoverableFollowsPolicy : Obligations.RecoverableFollowsPolicy := by
  intro s c
  have hkeep : (recoverable c s).out = s.out ∧ (recoverable c s).mem = s.mem
      ∧ (recoverable c s).eng.cursor = s.eng.cursor := by
    obtain ⟨-, h⟩ | ⟨-, h⟩ := recoverable_cases c s <;> rw [h]
    · simp
    · exact ⟨rfl, rfl, rfl⟩
  have hcode : lastErrWord c false false = BitVec.ofNat 32 (errNumber c) := by cases c <;> decide
  refine ⟨fun hraise => by simp [recoverable, hraise], fun hlog => ?_, fun hignore => ?_, hkeep⟩
  · rw [recoverable_of_not_raise (by simp [hlog])]
    simp [backToSeek, hlog, hcode]
  · rw [recoverable_of_not_raise (by simp [hignore])]
    simp [backToSeek, hignore]

/-- Settles O24: without the extension, or with AI at most 1, there is no length; else the code's row. -/
theorem authLengthTable : Obligations.AuthLengthTable := by
  intro eaf ai ealc
  refine ⟨fun h => ?_, fun heaf hai => ?_⟩
  · rw [authLen, if_pos]
    simpa using h
  · have hrow : ¬ (!eaf || decide (ai.toNat ≤ 1)) = true := by simpa [heaf] using hai
    simp only [authLen, if_neg hrow]
    revert ealc
    decide

end Sys2Proof.Machine
end

section
/-!
The host bus (spec/10_state.md sections 1 to 4, spec/20_memory.md sections 1 to 4): reads of registers and windows,
writes while idle and while busy, the reset input, and what a whole step can do to CTRL, the operands and `eos`.
-/

namespace Sys2Proof.Machine

/-! ## Bits and fields of a word -/

/-- A bit of a word, by its number (R8). -/
theorem toNat_getLsbD {w : Nat} (v : BitVec w) (i : Nat) : (v.getLsbD i).toNat = v.toNat / 2 ^ i % 2 := by
  rw [BitVec.getLsbD, Nat.toNat_testBit]

theorem getLsbD_eq_false_iff {w : Nat} (v : BitVec w) (i : Nat) :
    v.getLsbD i = false ↔ v.toNat / 2 ^ i % 2 = 0 := by
  rw [← toNat_getLsbD, Bool.toNat_eq_zero]

/-- A number placed in a register above the fields below it is a summand (R22, R24). -/
theorem toNat_or_atBit {r : Word} {low v k : Nat} (hr : r.toNat = low) (hlow : low < 2 ^ k)
    (h : v * 2 ^ k < 2 ^ 32) : (r ||| atBit v k).toNat = low + v * 2 ^ k :=
  toNat_or_regField hr hlow h

/-- A concatenation as a number: the left part above the right (R9). -/
theorem toNat_append_eq_add {m n : Nat} (x : BitVec m) (y : BitVec n) :
    (x ++ y).toNat = x.toNat * 2 ^ n + y.toNat := by
  rw [BitVec.toNat_append, ← Nat.shiftLeft_add_eq_or_of_lt y.isLt, Nat.shiftLeft_eq]

/-! ## STATUS and CTRL as the host reads them -/

theorem outcomeCode_le (o : CmdOutcome) : outcomeCode o ≤ 4 := by cases o <;> decide

theorem errNumber_le (c : ErrCode) : errNumber c ≤ 7 := by cases c <;> decide

theorem policyCode_le (p : Policy) : policyCode p ≤ 2 := by cases p <;> decide

/-- BUSY as a number (R45). -/
theorem toNat_busy (s : State) : (busy s).toNat = if s.eng.fsm = .idle then 0 else 1 := by
  by_cases h : s.eng.fsm = .idle <;> simp [busy, h]

/-- Settles O35: STATUS is packed field by field, each above the sum of those below it. -/
theorem statusReadsItsFields : Obligations.StatusReadsItsFields := by
  intro s
  have hbusy := Bool.toNat_lt (busy s)
  have hdone := Bool.toNat_lt s.status.done
  have hout := outcomeCode_le s.status.outcome
  have hchk := Bool.toNat_lt s.status.crcChecked
  have hok := Bool.toNat_lt s.status.crcOk
  have heos := Bool.toNat_lt s.eng.eos
  have hcode := errNumber_le s.status.errCode
  have hovr := Bool.toNat_lt s.status.ovr
  have hacc := Bool.toNat_lt s.status.accErr
  have hfv := Bool.toNat_lt s.status.frameValid
  have hop := s.status.cmdOp.isLt
  have toBusy : (atBit (busy s).toNat 0).toNat = (busy s).toNat * 2 ^ 0 := toNat_regField (by omega)
  have toDone := toNat_or_atBit toBusy (v := s.status.done.toNat) (k := 1) (by omega) (by omega)
  have toOut := toNat_or_atBit toDone (v := outcomeCode s.status.outcome) (k := 2) (by omega) (by omega)
  have toChk := toNat_or_atBit toOut (v := s.status.crcChecked.toNat) (k := 5) (by omega) (by omega)
  have toOk := toNat_or_atBit toChk (v := s.status.crcOk.toNat) (k := 6) (by omega) (by omega)
  have toEos := toNat_or_atBit toOk (v := s.eng.eos.toNat) (k := 7) (by omega) (by omega)
  have toCode := toNat_or_atBit toEos (v := errNumber s.status.errCode) (k := 8) (by omega) (by omega)
  have toOvr := toNat_or_atBit toCode (v := s.status.ovr.toNat) (k := 12) (by omega) (by omega)
  have toAcc := toNat_or_atBit toOvr (v := s.status.accErr.toNat) (k := 13) (by omega) (by omega)
  have toFv := toNat_or_atBit toAcc (v := s.status.frameValid.toNat) (k := 14) (by omega) (by omega)
  have toOp := toNat_or_atBit toFv (v := s.status.cmdOp.toNat) (k := 16) (by omega) (by omega)
  rw [← toNat_busy, statusWord, toOp]
  ring

/-- CTRL is the sum of its fields (R22). -/
theorem toNat_ctrlWord (c : Ctrl) :
    (ctrlWord c).toNat = c.crcEn.toNat + 2 * policyCode c.policy + 8 * c.strictEal.toNat + 16 * c.upe.toNat
      + 32 * c.ie.toNat := by
  have hen := Bool.toNat_lt c.crcEn
  have hpol := policyCode_le c.policy
  have hstrict := Bool.toNat_lt c.strictEal
  have hupe := Bool.toNat_lt c.upe
  have hie := Bool.toNat_lt c.ie
  have toEn : (atBit c.crcEn.toNat 0).toNat = c.crcEn.toNat * 2 ^ 0 := toNat_regField (by omega)
  have toPol := toNat_or_atBit toEn (v := policyCode c.policy) (k := 1) (by omega) (by omega)
  have toStrict := toNat_or_atBit toPol (v := c.strictEal.toNat) (k := 3) (by omega) (by omega)
  have toUpe := toNat_or_atBit toStrict (v := c.upe.toNat) (k := 4) (by omega) (by omega)
  have toIe := toNat_or_atBit toUpe (v := c.ie.toNat) (k := 5) (by omega) (by omega)
  rw [ctrlWord, toIe]
  ring

/-- POLICY takes its two bits, but for the reserved value 3 (R22, R23). -/
theorem policyCode_policyWrite (old : Policy) (v : BitVec 2) :
    policyCode (policyWrite old v) = if v.toNat = 3 then policyCode old else v.toNat := by
  revert v
  cases old <;> decide

/-- CTRL after a write, by the bits written (R22). -/
theorem toNat_ctrlWrite (c : Ctrl) (v : Word) :
    (ctrlWord (ctrlWrite c v)).toNat =
      v.toNat % 2 + 2 * (if v.toNat / 2 % 4 = 3 then policyCode c.policy else v.toNat / 2 % 4)
        + 8 * (v.toNat / 8 % 2) + 16 * (v.toNat / 16 % 2) + 32 * (v.toNat / 32 % 2) := by
  have hpol : (v.extractLsb' 1 2).toNat = v.toNat / 2 % 4 := by
    rw [BitVec.extractLsb'_toNat, Nat.shiftRight_eq_div_pow]
  simp only [toNat_ctrlWord, ctrlWrite, policyCode_policyWrite, hpol, toNat_getLsbD, Nat.pow_zero, Nat.div_one,
    Nat.reducePow]

/-! ## Writes to a register -/

theorem toNat_regOff (r : Reg) : (regOff r).toNat = regOffset r := by cases r <;> rfl

/-- A 4-byte write at a register's offset is a step that writes that register (R61). -/
theorem step_of_regWrite {s : State} {off : BitVec 14} {v : Word} {rest : List Input} (r : Reg)
    (hoff : off.toNat = regOffset r) (h : s.out.inputs = .write off 4 v :: rest) :
    step s = regWrite r v (s.pop rest) := by
  rw [step_of_write h, busWrite_reg hoff]

theorem guardedWrite_of_idle {s : State} (h : s.eng.fsm = .idle) (t : State) : guardedWrite s t = t := by
  simp [guardedWrite, busy_of_idle h]

theorem guardedWrite_of_busy {s : State} (h : s.eng.fsm ≠ .idle) (t : State) : guardedWrite s t = setOvr s := by
  simp [guardedWrite, busy_of_not_idle h]

/-- Settles O36: CTRL after the write, as a sum of the bits written. -/
theorem ctrlWriteIsWarl : Obligations.CtrlWriteIsWarl := by
  intro s v rest hidle hin
  have hpol := policyCode_le s.ctrl.policy
  refine ⟨ctrlWrite s.ctrl v, ?_, fun hne => ?_, fun heq => ?_, ?_⟩
  · rw [step_of_regWrite .ctrl rfl hin, regWrite, guardedWrite_of_idle (s := s.pop rest) hidle]
    rfl
  · rw [toNat_ctrlWrite, if_neg hne]
    omega
  · rw [toNat_ctrlWrite, if_pos heq]
    omega
  · rw [toNat_ctrlWrite]
    split <;> omega

/-- A flag that a 1 in bit `i` clears (R24). -/
theorem w1c_iff (flag : Bool) (v : Word) (i : Nat) :
    (flag && !v.getLsbD i) = true ↔ flag = true ∧ v.toNat / 2 ^ i % 2 = 0 := by
  rw [Bool.and_eq_true, Bool.not_eq_true', getLsbD_eq_false_iff]

/-- Settles O37: the write is `statusW1c`, whose three flags are cleared by their bits. -/
theorem statusWriteClears : Obligations.StatusWriteClears := by
  intro s v rest hin
  exact ⟨{ s.pop rest with status := statusW1c s.status v }, step_of_regWrite .status rfl hin, rfl,
    w1c_iff .., w1c_iff .., w1c_iff ..⟩

/-- Settles O38: each of the four offsets is its register's, and the write is not guarded while idle. -/
theorem operandWritesStore : Obligations.OperandWritesStore := by
  intro s v rest hidle t
  refine ⟨fun hin => ?_, fun hin => ?_, fun hin => ?_, fun hin => ?_⟩
  · rw [step_of_regWrite .arg0 rfl hin, regWrite, guardedWrite_of_idle (s := s.pop rest) hidle]; rfl
  · rw [step_of_regWrite .arg1 rfl hin, regWrite, guardedWrite_of_idle (s := s.pop rest) hidle]; rfl
  · rw [step_of_regWrite .expected rfl hin, regWrite, guardedWrite_of_idle (s := s.pop rest) hidle]; rfl
  · rw [step_of_regWrite .dbufLen rfl hin, regWrite, guardedWrite_of_idle (s := s.pop rest) hidle]; rfl

/-! ## Reads of a register -/

/-- A 4-byte read at a register's offset returns that register and changes nothing else (R21, R61). -/
theorem step_of_regRead {s : State} {off : BitVec 14} {rest : List Input} (r : Reg)
    (hoff : off.toNat = regOffset r) (h : s.out.inputs = .read off 4 :: rest) :
    step s = .next { s with out := { s.out with inputs := rest, hostRead := some (regValue s r) } } := by
  rw [step_of_read h, busRead, accessTarget_reg hoff]
  rfl

/-- Settles O34: the list is the register map, register by register. -/
theorem registerMapReads : Obligations.RegisterMapReads := by
  intro s rest off v hmem hin
  have hcursor : BitVec.ofNat 32 (s.eng.cursor % 2 ^ 32) = BitVec.ofNat 32 s.eng.cursor := by
    apply BitVec.eq_of_toNat_eq
    rw [BitVec.toNat_ofNat, BitVec.toNat_ofNat, Nat.mod_mod]
  rw [hcursor] at hmem
  have hmap : ∃ r ∈ allRegs, (regOff r, regValue s r) = (off, v) := List.mem_map.mp hmem
  obtain ⟨r, -, hr⟩ := hmap
  obtain ⟨rfl, rfl⟩ := Prod.mk.inj hr
  exact step_of_regRead r (toNat_regOff r) hin

/-! ## The windows -/

/-- An offset in a buffer window is its base and an index (R60). -/
theorem windowAt_bufBase (b : Source) {i : Nat} (hi : i < 2048) : windowAt (bufBase b + i) = some (b, i) := by
  cases b with
  | dbuf =>
    have hfbuf : ¬ (Config.fbufBase ≤ bufBase .dbuf + i ∧ bufBase .dbuf + i < Config.fbufBase + Config.fbufSize) := by
      simp only [bufBase, Config.fbufBase, Config.fbufSize, Config.dbufBase]
      omega
    have hdbuf : Config.dbufBase ≤ bufBase .dbuf + i ∧ bufBase .dbuf + i < Config.dbufBase + Config.dbufSize :=
      ⟨Nat.le_add_right .., Nat.add_lt_add_left hi _⟩
    rw [windowAt, if_neg hfbuf, if_pos hdbuf, bufBase, Nat.add_sub_cancel_left]
  | fbuf =>
    have hfbuf : Config.fbufBase ≤ bufBase .fbuf + i ∧ bufBase .fbuf + i < Config.fbufBase + Config.fbufSize :=
      ⟨Nat.le_add_right .., Nat.add_lt_add_left hi _⟩
    rw [windowAt, if_pos hfbuf, bufBase, Nat.add_sub_cancel_left]

theorem accessTarget_byte {off : BitVec 14} {b : Source} {i : Nat} (hi : i < 2048)
    (hoff : off.toNat = bufBase b + i) : accessTarget off 1 = some (.byte b i) := by
  simp [accessTarget, hoff, windowAt_bufBase b hi]

theorem accessTarget_word {off : BitVec 14} {b : Source} {i : Nat} (hi : i < 2048)
    (hoff : off.toNat = bufBase b + i) (hal : off.toNat % 4 = 0) : accessTarget off 4 = some (.word b i) := by
  rw [hoff] at hal
  simp [accessTarget, hoff, windowAt_bufBase b hi, hal]

/-- A word read from a window is little-endian (R62, R68). -/
theorem toNat_wordOfLanes (b0 b1 b2 b3 : Byte) :
    (wordOfLanes b0 b1 b2 b3).toNat =
      b0.toNat + 2 ^ 8 * b1.toNat + 2 ^ 16 * b2.toNat + 2 ^ 24 * b3.toNat := by
  simp only [wordOfLanes, toNat_append_eq_add]
  ring

/-- An offset in one of the two windows. -/
theorem exists_index {off : BitVec 14}
    (h : 0x1000 ≤ off.toNat ∧ off.toNat < 0x1800 ∨ 0x2000 ≤ off.toNat ∧ off.toNat < 0x2800) :
    ∃ b i, i < 2048 ∧ off.toNat = bufBase b + i := by
  obtain ⟨hlo, hhi⟩ | ⟨hlo, hhi⟩ := h
  · exact ⟨.fbuf, off.toNat - 0x1000, by omega, by simp only [bufBase, Config.fbufBase]; omega⟩
  · exact ⟨.dbuf, off.toNat - 0x2000, by omega, by simp only [bufBase, Config.dbufBase]; omega⟩

/-- Settles O42: the byte or the four lanes at the offset. -/
theorem windowReads : Obligations.WindowReads := by
  intro s off rest hwin
  obtain ⟨b, i, hi, hoff⟩ := exists_index hwin
  refine ⟨fun hin => ?_, fun hal hin => ?_⟩
  · have hbyte : (byteAt s off.toNat).setWidth 32 = BitVec.ofNat 32 (byteAt s off.toNat).toNat := by
      apply BitVec.eq_of_toNat_eq
      rw [BitVec.toNat_setWidth, BitVec.toNat_ofNat]
    rw [step_of_read hin, busRead, accessTarget_byte hi hoff, ← hbyte, hoff]
    rfl
  · refine ⟨_, by rw [step_of_read hin, busRead, accessTarget_word hi hoff hal]; rfl, ?_⟩
    simp only [targetValue, toNat_wordOfLanes, bufByte, hoff, Nat.add_assoc]
    rfl

/-- Lane `k` of a word (R62). -/
theorem toNat_laneOfWord (v : Word) (k : Nat) : (laneOfWord v k).toNat = v.toNat / 2 ^ (8 * k) % 2 ^ 8 := by
  rw [laneOfWord, BitVec.extractLsb'_toNat, Nat.shiftRight_eq_div_pow]

/-- A stored word's byte at offset `k` is its lane `k` (R62). -/
theorem byteAt_storeWord_lane (s : State) (b : Source) (i : Nat) (v : Word) {k : Nat} (hk : k < 4) :
    byteAt (storeWord s b i v) (bufBase b + i + k) = laneOfWord v k := by
  simp only [storeWord, byteAt_bufStore]
  interval_cases k <;> simp [Nat.add_assoc]

/-- A stored word reaches no other byte (R62). -/
theorem byteAt_storeWord_other (s : State) (b : Source) (i a : Nat) (v : Word)
    (ha : ∀ k, k < 4 → a ≠ bufBase b + i + k) : byteAt (storeWord s b i v) a = byteAt s a := by
  have h0 := ha 0 (by omega)
  have h1 := ha 1 (by omega)
  have h2 := ha 2 (by omega)
  have h3 := ha 3 (by omega)
  simp only [storeWord, byteAt_bufStore]
  rw [if_neg (by omega), if_neg (by omega), if_neg (by omega), if_neg (by omega)]

/-- An admitted write to the DBUF window is a guarded store of its byte or word (R62, R71). -/
theorem busWrite_dbuf {off : BitVec 14} {i : Nat} (hi : i < 2048) (hoff : off.toNat = bufBase .dbuf + i)
    (v : Word) (s : State) :
    busWrite off 1 v s = .next (guardedWrite s (bufStore s .dbuf i (v.extractLsb' 0 8)))
    ∧ (off.toNat % 4 = 0 → busWrite off 4 v s = .next (guardedWrite s (storeWord s .dbuf i v))) :=
  ⟨by simp [busWrite, accessTarget_byte hi hoff], fun hal => by simp [busWrite, accessTarget_word hi hoff hal]⟩

/-- Settles O43: the store of one byte, or of the four lanes. -/
theorem windowWrites : Obligations.WindowWrites := by
  intro s off v rest hidle hlo hhi
  obtain ⟨i, hi, hoff⟩ : ∃ i, i < 2048 ∧ off.toNat = bufBase .dbuf + i :=
    ⟨off.toNat - 0x2000, by omega, by simp only [bufBase, Config.dbufBase]; omega⟩
  obtain ⟨hbyte, hword⟩ := busWrite_dbuf hi hoff v (s.pop rest)
  rw [guardedWrite_of_idle (s := s.pop rest) hidle] at hbyte hword
  constructor
  · intro hin
    refine ⟨_, (step_of_write hin).trans hbyte, ?_⟩
    rintro t rfl
    have hat (a : Nat) := byteAt_bufStore s .dbuf i a (v.extractLsb' 0 8)
    refine ⟨?_, fun a ha => ?_⟩
    · refine (congrArg BitVec.toNat ((hat off.toNat).trans (if_pos hoff.symm))).trans ?_
      simp
    · exact (hat a).trans (if_neg (hoff ▸ ha.symm))
  · intro hal hin
    refine ⟨_, (step_of_write hin).trans (hword hal), ?_⟩
    rintro t rfl
    refine ⟨fun k hk => ?_, fun a ha => ?_⟩
    · rw [hoff]
      exact (congrArg BitVec.toNat (byteAt_storeWord_lane s .dbuf i v hk)).trans (toNat_laneOfWord v k)
    · rw [hoff] at ha
      exact byteAt_storeWord_other s .dbuf i a v ha

/-! ## Writes that have no effect -/

/-- The registers from RES_LO to PREAMBLE are read-only to the host (R21, R61). -/
theorem regWrite_readOnly {r : Reg} (h : 0x01C ≤ regOffset r) (v : Word) (s : State) :
    regWrite r v s = .next s := by
  cases r
  case ctrl | cmd | status | arg0 | arg1 | expected | dbufLen => simp [regOffset] at h
  all_goals rfl

/-- Every multiple of 4 up to 0x064 is a register's offset (R21). -/
theorem exists_reg : ∀ k < 26, ∃ r ∈ allRegs, regOffset r = 4 * k := by decide

/-- Settles O40: the offset is a read-only register's, or in the FBUF window. -/
theorem readOnlyWritesIgnored : Obligations.ReadOnlyWritesIgnored := by
  intro s off width v rest hin hcase
  rw [step_of_write hin]
  obtain ⟨rfl, hlo, hhi, hal⟩ | ⟨hlo, hhi, hw⟩ := hcase
  · obtain ⟨r, -, hr⟩ := exists_reg (off.toNat / 4) (by omega)
    rw [busWrite_reg (r := r) (by omega), regWrite_readOnly (by omega)]
    rfl
  · obtain ⟨i, hi, hoff⟩ : ∃ i, i < 2048 ∧ off.toNat = bufBase .fbuf + i :=
      ⟨off.toNat - 0x1000, by omega, by simp only [bufBase, Config.fbufBase]; omega⟩
    obtain rfl | ⟨rfl, hal⟩ := hw
    · rw [busWrite, accessTarget_byte hi hoff]
      rfl
    · rw [busWrite, accessTarget_word hi hoff hal]
      rfl

/-! ## Writes while busy (R71, R244) -/

/-- Settles O39: every such write is guarded, or a command or an illegal word that BUSY refuses. -/
theorem busyWritesAreLost : Obligations.BusyWritesAreLost := by
  intro s off width v rest hbusy hin lost
  have hguard (t : State) : guardedWrite (s.pop rest) t = setOvr (s.pop rest) :=
    guardedWrite_of_busy (s := s.pop rest) hbusy t
  have hlost : setOvr (s.pop rest) = lost := rfl
  refine ⟨?_, fun hlo hhi hw => ?_, ?_⟩
  · rintro rfl hoff
    have hregs : ∃ r ∈ [Reg.ctrl, .arg0, .arg1, .expected, .dbufLen], regOff r = off := List.mem_map.mp hoff
    obtain ⟨r, hr, rfl⟩ := hregs
    rw [step_of_regWrite r (toNat_regOff r) hin]
    simp only [List.mem_cons, List.not_mem_nil, or_false] at hr
    obtain rfl | rfl | rfl | rfl | rfl := hr <;> rw [regWrite, hguard, hlost]
  · obtain ⟨i, hi, hoff⟩ : ∃ i, i < 2048 ∧ off.toNat = bufBase .dbuf + i :=
      ⟨off.toNat - 0x2000, by omega, by simp only [bufBase, Config.dbufBase]; omega⟩
    obtain ⟨hbyte, hword⟩ := busWrite_dbuf hi hoff v (s.pop rest)
    rw [step_of_write hin, ← hlost]
    obtain rfl | ⟨rfl, hal⟩ := hw
    · rw [hbyte, hguard]
    · rw [hword hal, hguard]
  · rintro rfl rfl hcmd
    rw [step_of_cmdWrite hin, ← hlost]
    by_cases hv : LegalWord v
    · obtain ⟨i, hi⟩ := decode_of_legal hv
      obtain ⟨hreset, habort⟩ := hcmd i hi
      rw [cmdWrite_of_decode hi]
      exact exec_of_busy (busy_of_not_idle (s := s.pop rest) hbusy) hreset habort
    · rw [cmdWrite_of_illegal hv, if_pos (busy_of_not_idle (s := s.pop rest) hbusy)]

/-! ## Reset (R240, R241) -/

/-- Settles O46: the reset state's registers and flags. -/
theorem resetStateValues : Obligations.ResetStateValues := by
  refine ⟨by decide, by decide, fun r hctrl hpre => ?_, rfl, rfl, rfl, rfl, rfl, rfl⟩
  cases r
  case ctrl => exact absurd rfl hctrl
  case preamble => exact absurd rfl hpre
  case status => decide
  all_goals rfl

/-- The registers after the reset input do not depend on the state before it (R241). -/
theorem regValue_hardReset (s : State) (r : Reg) : regValue (hardReset s) r = regValue State.reset r := by
  cases r <;> rfl

/-- Settles O45: the registers are the reset state's, and the rest is `hardReset`'s by definition. -/
theorem hardwareResetValues : Obligations.HardwareResetValues := by
  intro s rest hin
  obtain ⟨hctrl, hpre, hzero, -⟩ := resetStateValues
  refine ⟨_, step_of_rst hin, ?_, ?_, fun r h1 h2 => ?_, rfl, rfl, rfl, rfl, rfl⟩
  · exact (regValue_hardReset ..).trans hctrl
  · exact (regValue_hardReset ..).trans hpre
  · exact (regValue_hardReset ..).trans (hzero r h1 h2)

/-! ## What a whole step can do -/

/-- An access that reaches a register is a 4-byte access at its offset (R61). -/
theorem eq_regOff_of_accessTarget {off : BitVec 14} {w : Nat} {r : Reg}
    (h : accessTarget off w = some (.reg r)) : w = 4 ∧ off = regOff r := by
  unfold accessTarget at h
  split at h
  case h_1 =>
    split at h
    · cases h
    · split at h <;> cases h
  case h_2 =>
    split at h
    case isTrue hw =>
      obtain ⟨r', hr', hreg⟩ := Option.map_eq_some_iff.mp h
      obtain rfl : r' = r := by simpa using hreg
      refine ⟨hw, BitVec.eq_of_toNat_eq ?_⟩
      rw [eq_regOffset_of_regAt hr', toNat_regOff]
    case isFalse => cases h

/-- A host write leaves the engine alone, unless it is a word written to CMD. -/
theorem busWrite_eng {off : BitVec 14} {w : Nat} {v : Word} {s t : State} (h : busWrite off w v s = .next t) :
    t.eng = s.eng ∨ (w = 4 ∧ off = 0x004#14 ∧ cmdWrite v s = .next t) := by
  have hguard (u : State) (hu : u.eng = s.eng) : (guardedWrite s u).eng = s.eng := by
    unfold guardedWrite
    split
    · rfl
    · exact hu
  unfold busWrite at h
  split at h
  case h_1 r htarget =>
    cases r
    case cmd =>
      obtain ⟨hw, hoff⟩ := eq_regOff_of_accessTarget htarget
      exact .inr ⟨hw, hoff, h⟩
    case ctrl | arg0 | arg1 | expected | dbufLen => cases h; exact .inl (hguard _ rfl)
    all_goals cases h; exact .inl rfl
  case h_2 | h_3 | h_6 => cases h; exact .inl rfl
  case h_4 | h_5 => cases h; exact .inl (hguard _ rfl)

/-- A word written to CMD keeps `eos` once it is set, unless it decodes to SOFT_RESET (R48, R183). -/
theorem cmdWrite_keeps_eos {w : Word} {s t : State} (h : cmdWrite w s = .next t) (heos : s.eng.eos = true) :
    t.eng.eos = true ∨ ∃ b c, decode w = .ok (.softReset b c) := by
  by_cases hw : LegalWord w
  · obtain ⟨i, hi⟩ := decode_of_legal hw
    rw [cmdWrite_of_decode hi] at h
    obtain ⟨b, c, rfl⟩ | hreset := softReset_or_not i
    · exact .inr ⟨b, c, hi⟩
    · exact .inl ((commandKeeps_of_exec hreset h).eos heos)
  · rw [cmdWrite_of_illegal hw] at h
    cases h
    left
    split
    · exact heos
    · simpa using heos

/-- An engine step keeps `eos` once it is set. -/
theorem engineStep_keeps_eos {s t : State} (h : engineStep s = .next t) (heos : s.eng.eos = true) :
    t.eng.eos = true := by
  obtain hk | ⟨b, rest, -, hk⟩ | ⟨e, rest, -, -, hk⟩ := engineStep_cases h
  · exact hk.eos.trans heos
  · exact hk.eos.trans heos
  · exact hk.eos

/-- Settles O50: every other agent's step keeps `eos`. -/
theorem eosClearedOnlyByReset : Obligations.EosClearedOnlyByReset := by
  intro s t h heos hclear
  have hlost (hkept : t.eng.eos = true) : False := by rw [hclear] at hkept; cases hkept
  match hin : s.out.inputs with
  | [] => rw [step_of_nil hin] at h; exact (hlost (engineStep_keeps_eos h heos)).elim
  | .tick :: rest =>
    rw [step_of_tick hin] at h
    exact (hlost (engineStep_keeps_eos (s := s.pop rest) h heos)).elim
  | .read off w :: rest =>
    rw [step_of_read hin, busRead] at h
    cases h
    refine (hlost ?_).elim
    split <;> exact heos
  | .offer e :: rest =>
    rw [step_of_offer hin, offerEvent] at h
    split at h <;> cases h
    exact (hlost heos).elim
  | .rst :: rest => exact .inl ⟨rest, rfl⟩
  | .write off w v :: rest =>
    rw [step_of_write hin] at h
    obtain heng | ⟨rfl, rfl, hcmd⟩ := busWrite_eng h
    · exact (hlost (heng ▸ heos)).elim
    · obtain hkept | ⟨b, c, hv⟩ := cmdWrite_keeps_eos (s := s.pop rest) hcmd heos
      · exact (hlost hkept).elim
      · exact .inr ⟨v, rest, b, c, rfl, hv⟩

/-! ## CTRL and the operands -/

/-- CTRL and the operand registers as they were (R46). -/
def SameOperands (s t : State) : Prop := t.ctrl = s.ctrl ∧ operands t = operands s

theorem sameOperands_of_engineStep {s t : State} (h : engineStep s = .next t) : SameOperands s t := by
  obtain hk | ⟨b, rest, -, hk⟩ | ⟨e, rest, -, -, hk⟩ := engineStep_cases h
  · exact ⟨hk.ctrl, hk.operands⟩
  · exact ⟨hk.ctrl, hk.operands⟩
  · exact ⟨hk.ctrl, hk.operands⟩

/-- A host write while busy that does not end the command changes neither CTRL nor an operand (R70, R71). -/
theorem sameOperands_of_busWrite_busy {off : BitVec 14} {w : Nat} {v : Word} {s t : State}
    (hbusy : busy s = true) (h : busWrite off w v s = .next t) (hstill : t.eng.fsm ≠ .idle) :
    SameOperands s t := by
  have hguard (u : State) : SameOperands s (guardedWrite s u) := by
    rw [guardedWrite, if_pos hbusy]
    exact ⟨rfl, rfl⟩
  unfold busWrite at h
  split at h
  case h_1 r _ =>
    cases r
    case cmd =>
      by_cases hv : LegalWord v
      · obtain ⟨i, hi⟩ := decode_of_legal hv
        rw [regWrite, cmdWrite_of_decode hi] at h
        obtain rfl | hidle := refused_or_idle hbusy h
        · exact ⟨rfl, rfl⟩
        · exact absurd hidle hstill
      · rw [regWrite, cmdWrite_of_illegal hv, if_pos hbusy] at h
        cases h
        exact ⟨rfl, rfl⟩
    case ctrl | arg0 | arg1 | expected | dbufLen => cases h; exact hguard _
    all_goals cases h; exact ⟨rfl, rfl⟩
  case h_2 | h_3 | h_6 => cases h; exact ⟨rfl, rfl⟩
  case h_4 | h_5 => cases h; exact hguard _

/-- A step that is neither a host write nor the reset input keeps CTRL and the operands. -/
theorem sameOperands_of_step {s t : State} (h : step s = .next t) :
    SameOperands s t
    ∨ (∃ off w v rest, s.out.inputs = .write off w v :: rest ∧ busWrite off w v (s.pop rest) = .next t)
    ∨ ∃ rest, s.out.inputs = .rst :: rest ∧ t.eng.fsm = .idle := by
  match hin : s.out.inputs with
  | [] => rw [step_of_nil hin] at h; exact .inl (sameOperands_of_engineStep h)
  | .tick :: rest =>
    rw [step_of_tick hin] at h
    exact .inl (sameOperands_of_engineStep (s := s.pop rest) h)
  | .read off w :: rest =>
    rw [step_of_read hin, busRead] at h
    cases h
    left
    split <;> exact ⟨rfl, rfl⟩
  | .offer e :: rest =>
    rw [step_of_offer hin, offerEvent] at h
    split at h <;> cases h
    exact .inl ⟨rfl, rfl⟩
  | .write off w v :: rest =>
    rw [step_of_write hin] at h
    exact .inr (.inl ⟨off, w, v, rest, rfl, h⟩)
  | .rst :: rest =>
    rw [step_of_rst hin] at h
    cases h
    exact .inr (.inr ⟨rest, rfl, rfl⟩)

/-- Settles O51: only a host write or the reset input changes them, and neither does while a command runs on. -/
theorem operandsStableWhileBusy : Obligations.OperandsStableWhileBusy := by
  intro s t h
  have hfields (hsame : SameOperands s t) : t.ctrl = s.ctrl ∧ t.regs.arg0 = s.regs.arg0
      ∧ t.regs.arg1 = s.regs.arg1 ∧ t.regs.expected = s.regs.expected ∧ t.regs.dbufLen = s.regs.dbufLen := by
    simpa [SameOperands, operands] using hsame
  obtain hsame | ⟨off, w, v, rest, hin, hwrite⟩ | ⟨rest, hin, hidle⟩ := sameOperands_of_step h
  · exact ⟨fun _ _ => hfields hsame, fun _ _ => hfields hsame⟩
  · refine ⟨fun hno _ => absurd hin (hno off w v rest), fun hbusy hstill => hfields ?_⟩
    exact sameOperands_of_busWrite_busy (s := s.pop rest) (busy_of_not_idle (s := s.pop rest) hbusy) hwrite hstill
  · exact ⟨fun _ hno => absurd hin (hno rest), fun _ hstill => absurd hidle hstill⟩

end Sys2Proof.Machine
end

section
/-!
The laws of the extractor (spec/40_bitfield.md R111) and of the CRC (spec/41_crc.md R128).
-/

namespace Sys2Proof.Machine

/-! ## The extractor (R111) -/

/-- Bytes in front weigh more (R9). -/
theorem beNat_append (a b : List Byte) : beNat (a ++ b) = beNat a * 2 ^ (8 * b.length) + beNat b := by
  induction b using List.reverseRecOn with
  | nil => simp [beNat]
  | append_singleton b x ih =>
    rw [← List.append_assoc, beNat_concat, beNat_concat, ih, List.length_append, List.length_singleton]
    ring

/-- A byte-aligned field is the big-endian value of its bytes. -/
theorem ext_aligned {buf : List Byte} {j m : Nat} (h : j + m ≤ buf.length) :
    ext buf (8 * j) (8 * m) = beNat ((buf.drop j).take m) := by
  have hmid : ((buf.drop j).take m).length = m := by
    rw [List.length_take, List.length_drop]
    omega
  have hbehind : ((buf.drop j).drop m).length = buf.length - (j + m) := by
    rw [List.length_drop, List.length_drop, Nat.sub_sub]
  have hsplit : beNat buf = (beNat (buf.take j) * 2 ^ (8 * m) + beNat ((buf.drop j).take m))
      * 2 ^ (8 * (buf.length - (j + m))) + beNat ((buf.drop j).drop m) := by
    have hbuf : buf = buf.take j ++ (buf.drop j).take m ++ (buf.drop j).drop m := by simp
    calc beNat buf = beNat (buf.take j ++ (buf.drop j).take m ++ (buf.drop j).drop m) := by rw [← hbuf]
      _ = _ := by rw [beNat_append, beNat_append, hmid, hbehind]
  have hlast := beNat_lt ((buf.drop j).drop m)
  have hfield := beNat_lt ((buf.drop j).take m)
  rw [hbehind] at hlast
  rw [hmid] at hfield
  rw [ext_eq_beNat_div (e := 8 * (buf.length - (j + m))) (by omega), hsplit,
    Nat.mul_comm (_ + _), Nat.mul_add_div (Nat.two_pow_pos _), Nat.div_eq_of_lt hlast, Nat.add_zero,
    Nat.mul_add_mod_of_lt hfield]

/-- A field is its first bits above its last. -/
theorem ext_add (buf : List Byte) (off a b : Nat) :
    ext buf off (a + b) = ext buf off a * 2 ^ b + ext buf (off + a) b := by
  induction b with
  | zero => simp [ext]
  | succ b ih =>
    rw [← Nat.add_assoc, ext, ih, ext, Nat.pow_succ, Nat.add_assoc off a b]
    ring

/-- Only the bytes the field lies in matter. -/
theorem ext_congr {buf buf' : List Byte} {off n : Nat}
    (h : ∀ i, off / 8 ≤ i → i ≤ (off + n - 1) / 8 → buf.getD i 0#8 = buf'.getD i 0#8) :
    ext buf off n = ext buf' off n := by
  induction n with
  | zero => rfl
  | succ n ih =>
    have hbit : bitAt buf (off + n) = bitAt buf' (off + n) := by
      rw [bitAt, bitAt, h ((off + n) / 8) (by omega) (by omega)]
    rw [ext, ext, hbit, ih fun i hlo hhi => h i hlo (by omega)]

/-- Settles O57: the four laws. -/
theorem extLaws : Obligations.ExtLaws :=
  ⟨ext_lt, fun _ _ _ => ext_aligned, ext_add, fun _ _ _ _ => ext_congr⟩

/-! ## The CRC (R128) -/

section crc

variable {w : Nat} {p : CrcParams w}

/-- Bit 0 of a shifted register tells whether the polynomial was added (R121). -/
theorem getLsbD_zero_crcShift (hw : 0 < w) (hp : p.poly.getLsbD 0 = true) (r : BitVec w) :
    (crcShift p r).getLsbD 0 = r.msb := by
  cases hmsb : r.msb <;> simp [crcShift, hmsb, hw, hp]

/-- With bit 0 of the polynomial set, a shift loses no register bit. -/
theorem crcShift_injective (hw : 0 < w) (hp : p.poly.getLsbD 0 = true) : Function.Injective (crcShift p) := by
  intro a b h
  have hmsb : a.msb = b.msb := by
    rw [← getLsbD_zero_crcShift hw hp a, h, getLsbD_zero_crcShift hw hp b]
  have hshift : a <<< 1 = b <<< 1 := by
    unfold crcShift at h
    rw [hmsb] at h
    split at h
    · exact (BitVec.xor_left_inj _).mp h
    · exact h
  apply BitVec.eq_of_getLsbD_eq
  intro i hi
  by_cases hlast : i = w - 1
  · rw [BitVec.msb_eq_getLsbD_last, BitVec.msb_eq_getLsbD_last] at hmsb
    rw [hlast, hmsb]
  · have hbit := congrArg (·.getLsbD (i + 1)) hshift
    have hi' : i + 1 < w := by omega
    simpa [BitVec.getLsbD_shiftLeft, hi', hi] using hbit

theorem crcShifts_injective (hw : 0 < w) (hp : p.poly.getLsbD 0 = true) (n : Nat) :
    Function.Injective (crcShifts p n) := by
  induction n with
  | zero => exact fun _ _ h => h
  | succ n ih => exact ih.comp (crcShift_injective hw hp)

/-- A byte taken from two different registers leaves two different registers. -/
theorem crcByte_injective_reg (hw : 0 < w) (hp : p.poly.getLsbD 0 = true) (b : Byte) :
    Function.Injective (fun r => crcByte p r b) := by
  intro r r' h
  exact (BitVec.xor_left_inj _).mp (crcShifts_injective hw hp 8 h)

/-- A byte aligned to the register's top keeps all its bits (R121). -/
theorem alignTop_injective (hw : 8 ≤ w) : Function.Injective (fun b : Byte => b.setWidth w <<< (w - 8)) := by
  intro b b' h
  apply BitVec.eq_of_getLsbD_eq
  intro i hi
  have hbit := congrArg (·.getLsbD (i + (w - 8))) h
  have htop : i + (w - 8) < w := by omega
  have hiw : i < w := by omega
  simpa [BitVec.getLsbD_shiftLeft, BitVec.getLsbD_setWidth, htop, hiw] using hbit

theorem reflectBits_injective : Function.Injective (reflectBits (w := w)) := by
  intro a b h
  rw [← BitVec.reverse_reverse_eq (x := a), ← BitVec.reverse_reverse_eq (x := b)]
  exact congrArg BitVec.reverse h

/-- Two different bytes taken from one register leave two different registers. -/
theorem crcByte_injective_byte (hw : 8 ≤ w) (hp : p.poly.getLsbD 0 = true) (r : BitVec w) :
    Function.Injective (crcByte p r) := by
  intro b b' h
  have haligned := (BitVec.xor_right_inj _).mp (crcShifts_injective (by omega) hp 8 h)
  have hbyte := alignTop_injective hw haligned
  split at hbyte
  · exact reflectBits_injective hbyte
  · exact hbyte

/-- The bytes that follow keep two registers different. -/
theorem foldl_crcByte_injective (hw : 0 < w) (hp : p.poly.getLsbD 0 = true) (s : List Byte) :
    Function.Injective (fun r => s.foldl (crcByte p) r) := by
  induction s with
  | nil => exact fun _ _ h => h
  | cons b s ih => exact ih.comp (crcByte_injective_reg hw hp b)

/-- Data that differ in one byte have different CRCs. -/
theorem crc_ne_of_byte_ne (hw : 8 ≤ w) (hp : p.poly.getLsbD 0 = true) (pre post : List Byte) {b b' : Byte}
    (hb : b ≠ b') : crc p (pre ++ b :: post) ≠ crc p (pre ++ b' :: post) := by
  intro h
  have hout := (BitVec.xor_left_inj _).mp h
  have hreg : (pre ++ b :: post).foldl (crcByte p) p.init = (pre ++ b' :: post).foldl (crcByte p) p.init := by
    split at hout
    · exact reflectBits_injective hout
    · exact hout
  rw [List.foldl_append, List.foldl_append, List.foldl_cons, List.foldl_cons] at hreg
  exact hb (crcByte_injective_byte hw hp _ (foldl_crcByte_injective (by omega) hp post hreg))

end crc

/-- Settles O58: a flipped bit makes another byte, and no step of the CRC maps two registers to one. -/
theorem crcDetectsSingleBitErrors : Obligations.CrcDetectsSingleBitErrors := by
  intro w p pre post b k hw hp hk
  have hflip : b ≠ b ^^^ (1#8 <<< k) := by
    intro h
    have hbit := congrArg (·.getLsbD k) h
    simp [hk] at hbit
  exact crc_ne_of_byte_ne hw hp pre post hflip

end Sys2Proof.Machine
end

section
/-!
The sender's side of the wire format (spec/30_encoding.md section 2): the length of an encoded frame, and its header
fields as numbers.
-/

namespace Sys2Proof.Machine

/-! ## Bytes of a number -/

@[simp] theorem length_bytesBE (n v : Nat) : (bytesBE n v).length = n := by
  induction n with
  | zero => rfl
  | succ n ih => simp [bytesBE, ih]

/-- The big-endian bytes of a number hold the number, as far as they reach (R67). -/
theorem beNat_bytesBE (n v : Nat) : beNat (bytesBE n v) = v % 2 ^ (8 * n) := by
  induction n with
  | zero => simp [bytesBE, beNat, Nat.mod_one]
  | succ n ih =>
    have hhead : beNat [BitVec.ofNat 8 (v >>> (8 * n))] = v / 2 ^ (8 * n) % 2 ^ 8 := by
      simp [beNat, Nat.shiftRight_eq_div_pow]
    rw [bytesBE, ← List.singleton_append, beNat_append, hhead, ih, length_bytesBE, Nat.mul_succ, Nat.pow_add,
      Nat.mod_mul]
    ring

/-- The bytes of a number that fits them. -/
theorem beNat_bytesBE_of_lt {n v : Nat} (h : v < 2 ^ (8 * n)) : beNat (bytesBE n v) = v := by
  rw [beNat_bytesBE, Nat.mod_eq_of_lt h]

/-- The bytes of a word of `8 * n` bits. -/
theorem beNat_bytesBE_toNat {n m : Nat} (x : BitVec m) (h : m = 8 * n) : beNat (bytesBE n x.toNat) = x.toNat :=
  beNat_bytesBE_of_lt (h ▸ x.isLt)

/-! ## The frame's parts and their lengths -/

/-- A well-formed frame's payload fits its length field, and its auth has the length the header says (R90, R96). -/
theorem Frame.wf_iff (f : Frame) : f.wf = true ↔ f.payload.length ≤ 1023 ∧ f.auth.length = f.authBytes := by
  simp [Frame.wf]

/-- The sender's auth length is the receiver's, on the extension's fields (R94). -/
theorem authBytes_eq_authLen {f : Frame} {e : EncExt} (h : f.ext = some e) :
    f.authBytes = authLen true e.authIndicator e.authLengthCode := by
  rw [Frame.authBytes, h]
  exact if_congr (by simp) rfl rfl

theorem authBytes_le (f : Frame) : f.authBytes ≤ 64 := by
  cases h : f.ext with
  | none => simp [Frame.authBytes, h]
  | some e => rw [authBytes_eq_authLen h]; exact authLen_le ..

@[simp] theorem length_pdBaseBytes (f : Frame) : (pdBaseBytes f).length = 4 + 2 * (frameTtt f).toNat := by
  unfold pdBaseBytes frameTtt
  cases f.timeTag <;> simp

@[simp] theorem length_extBytes (f : Frame) : (extBytes f).length = 2 * (frameEaf f).toNat := by
  unfold extBytes frameEaf
  cases f.ext <;> simp

theorem length_encodeFrame (f : Frame) :
    (encodeFrame f).length = 1 + (coreBytes f).length + crcBytes f.crcType := by
  simp only [encodeFrame, frameWithTrailer, List.length_append, List.length_cons, length_bytesBE]
  omega

/-- Settles O59: the lengths of the parts, and their bounds. -/
theorem frameLengthFormula : Obligations.FrameLengthFormula := by
  intro f hwf
  obtain ⟨hpl, hauth⟩ := (Frame.wf_iff f).mp hwf
  have httt := Bool.toNat_lt (frameTtt f)
  have heaf := Bool.toNat_lt (frameEaf f)
  have hle := authBytes_le f
  have hcrc := crcBytes_range f.crcType
  have hcode : crcBytes f.crcType = crcCode f.crcType + 1 := rfl
  have hlen : (encodeFrame f).length = 8 + 2 * (frameTtt f).toNat + 2 * (frameEaf f).toNat + f.payload.length
      + f.authBytes + crcBytes f.crcType := by
    rw [length_encodeFrame]
    simp only [coreBytes, List.length_append, length_bytesBE, length_pdBaseBytes, length_extBytes, hauth]
    omega
  refine ⟨by omega, by omega, by omega⟩

/-! ## The header fields as numbers -/

theorem toNat_ofBool (b : Bool) : (BitVec.ofBool b).toNat = b.toNat := by cases b <;> rfl

theorem crcCode_lt (c : CrcSel) : crcCode c < 4 := by cases c <;> decide

theorem crcCode_injective {c d : CrcSel} (h : crcCode c = crcCode d) : c = d := by
  cases c <;> cases d <;> simp_all [crcCode]

/-- The frame-start value by its fields (R90). -/
theorem toNat_frameStartBits {f : Frame} (hpl : f.payload.length ≤ 1023) :
    (frameStartBits f).toNat =
      (((f.messageType.toNat * 2 ^ 10 + f.payload.length) * 2 + (frameEaf f).toNat) * 2 ^ 2
        + crcCode f.crcType) * 2 ^ 4 + f.frameCrc.toNat := by
  have hct := crcCode_lt f.crcType
  simp only [frameStartBits, toNat_append_eq_add, toNat_ofBool, BitVec.toNat_ofNat]
  omega

/-- HDR_FS by the frame's fields (R32). -/
theorem toNat_frameHdrFs {f : Frame} (hpl : f.payload.length ≤ 1023) :
    (frameHdrFs f).toNat =
      f.messageType.toNat + (frameEaf f).toNat * 2 ^ 7 + f.payload.length * 2 ^ 8
        + crcCode f.crcType * 2 ^ 20 + f.frameCrc.toNat * 2 ^ 24 := by
  have hct := crcCode_lt f.crcType
  simp only [frameHdrFs, toNat_append_eq_add, toNat_ofBool, BitVec.toNat_ofNat]
  omega

/-- The time tag's value, 16 or 32 bits (R91). -/
def timeTagValue : TimeTag → Nat
  | .short t => t.toNat
  | .long t => t.toNat

theorem timeTagValue_lt (f : Frame) : timeTagValue f.timeTag < 2 ^ (16 + 16 * (frameTtt f).toNat) := by
  unfold frameTtt
  cases h : f.timeTag with
  | short t => exact t.isLt
  | long t => exact t.isLt

/-- The payload-descriptor base by its fields (R91). -/
theorem beNat_pdBaseBytes (f : Frame) :
    beNat (pdBaseBytes f) =
      (((f.messageSubtype.toNat * 2 + (frameTtt f).toNat) * 2 ^ (16 + 16 * (frameTtt f).toNat)
        + timeTagValue f.timeTag) * 2 ^ 7 + f.solutionId.toNat) * 2 ^ 4 + f.solutionProcId.toNat := by
  unfold pdBaseBytes frameTtt
  cases f.timeTag with
  | short t =>
    simp only
    rw [beNat_bytesBE_toNat _ rfl]
    simp only [toNat_append_eq_add]
    simp [timeTagValue]
  | long t =>
    simp only
    rw [beNat_bytesBE_toNat _ rfl]
    simp only [toNat_append_eq_add]
    simp [timeTagValue]

/-- HDR_PD by the frame's fields (R33). -/
theorem toNat_frameHdrPd (f : Frame) :
    (frameHdrPd f).toNat =
      f.messageSubtype.toNat + (frameTtt f).toNat * 2 ^ 4 + f.solutionId.toNat * 2 ^ 8
        + f.solutionProcId.toNat * 2 ^ 16 := by
  simp only [frameHdrPd, toNat_append_eq_add, toNat_ofBool, BitVec.toNat_ofNat]
  omega

/-- HDR_TT is the time tag, zero-extended (R34). -/
theorem toNat_frameHdrTt (f : Frame) : (frameHdrTt f).toNat = timeTagValue f.timeTag := by
  unfold frameHdrTt
  cases f.timeTag with
  | short t =>
    have ht := t.isLt
    simp only [timeTagValue, BitVec.toNat_setWidth]
    omega
  | long t => rfl

/-- The extension by its fields (R92). -/
theorem beNat_extBytes {f : Frame} {e : EncExt} (h : f.ext = some e) :
    beNat (extBytes f) =
      ((e.encryptionId.toNat * 2 ^ 6 + e.encryptionSequence.toNat) * 2 ^ 3 + e.authIndicator.toNat) * 2 ^ 3
        + e.authLengthCode.toNat := by
  simp only [extBytes, h]
  rw [beNat_bytesBE_toNat _ rfl]
  simp only [toNat_append_eq_add]

/-- HDR_EA by the extension's fields (R35). -/
theorem toNat_frameHdrEa {f : Frame} {e : EncExt} (h : f.ext = some e) :
    (frameHdrEa f).toNat =
      e.encryptionId.toNat + e.encryptionSequence.toNat * 2 ^ 4 + e.authIndicator.toNat * 2 ^ 10
        + e.authLengthCode.toNat * 2 ^ 13 + 2 ^ 16 := by
  simp only [frameHdrEa, h, toNat_append_eq_add, BitVec.toNat_ofNat]
  omega

/-- A CRC fits its trailer (R120). -/
theorem toNat_crcWord_lt (c : CrcSel) (s : List Byte) : (crcWord c s).toNat < 2 ^ (8 * crcBytes c) := by
  rw [crcWord, BitVec.toNat_setWidth]
  exact (Nat.mod_le _ _).trans_lt (BitVec.isLt _)

end Sys2Proof.Machine
end

section
/-!
The round trip (spec/42_frame_assembler.md section 5, points 1 and 3): the engine's run over an encoded frame, chunk
by chunk, and what each chunk's end makes of the frame's fields.
-/

namespace Sys2Proof.Machine

/-! ## Runs of the engine -/

/-- Two runs in a row are one run. -/
theorem engineRun_add {m n : Nat} {s t : State} (h : engineRun m s = .next t) :
    engineRun (m + n) s = engineRun n t := by
  induction m generalizing s with
  | zero =>
    cases h
    rw [Nat.zero_add]
  | succ m ih =>
    rw [Nat.add_right_comm, engineRun]
    rw [engineRun] at h
    split at h
    case h_1 u hu => rw [ih h]
    case h_2 | h_3 => cases h

theorem engineRun_trans {m n : Nat} {s t u : State} (h : engineRun m s = .next t)
    (k : engineRun n t = .next u) : engineRun (m + n) s = .next u :=
  (engineRun_add h).trans k

/-- The machine's run, from its first step. -/
theorem run_of_step {s t : State} (h : step s = .next t) (n : Nat) :
    Host.Core.run Sys2Proof.core (n + 1) s = Host.Core.run Sys2Proof.core n t := by
  have hstep : Sys2Proof.core.step s = .next t := h
  simp only [Host.Core.run, hstep]

/-- With nothing scheduled the machine's run is the engine's (R10). -/
theorem run_eq_engineRun (n : Nat) {s : State} (h : s.out.inputs = []) :
    Host.Core.run Sys2Proof.core n s = engineRun n s := by
  induction n generalizing s with
  | zero => rfl
  | succ n ih =>
    have hstep : Sys2Proof.core.step s = engineStep s := step_of_nil h
    simp only [Host.Core.run, engineRun, hstep]
    cases hs : engineStep s with
    | next t => exact ih ((cursorCountsTakenBytes s t hs).1.trans h)
    | fault r => rfl
    | refused r => rfl

/-! ## Slices of a buffer -/

/-- A slice is its first bytes and those behind them. -/
theorem bufSlice_add (s : State) (b : Source) (i m n : Nat) :
    bufSlice s b i (m + n) = bufSlice s b i m ++ bufSlice s b (i + m) n := by
  simp [bufSlice, List.range_add, Function.comp_def, Nat.add_assoc]

/-- The bytes of a part of what a buffer holds. -/
theorem bufSlice_of_held {s : State} {src : Source} {a b c : List Byte}
    (h : bufSlice s src 0 (a ++ b ++ c).length = a ++ b ++ c) : bufSlice s src a.length b.length = b := by
  rw [List.length_append, List.length_append, bufSlice_add, bufSlice_add, Nat.zero_add] at h
  obtain ⟨hab, -⟩ := List.append_inj h (by simp)
  exact (List.append_inj hab (by simp)).2

/-! ## The state of a frame attempt on the way through the frame's bytes -/

/-- A READ_NEXT that found its preamble in `s0` has stored the bytes `l` so far, and `r` is still offered. -/
structure Receiving (s0 : State) (l : List Byte) (r : List SrcEvent) (s : State) : Prop where
  held : bufSlice s .fbuf 0 l.length = l
  pos : s.eng.pos = l.length
  cursor : s.eng.cursor = s0.eng.cursor + l.length
  out : s.out = { s0.out with src := r }
  ctrl : s.ctrl = s0.ctrl
  status : s.status = s0.status
  frameCnt : s.regs.frameCnt = s0.regs.frameCnt
  discardCnt : s.regs.discardCnt = s0.regs.discardCnt

/-- Updates of the latches, of `fsm` and of the frame's own registers do not touch what has been received. -/
theorem Receiving.congr {s0 s t : State} {l : List Byte} {r : List SrcEvent} (h : Receiving s0 l r s)
    (hmem : t.mem = s.mem) (hfree : t.free = s.free) (hpos : t.eng.pos = s.eng.pos)
    (hcursor : t.eng.cursor = s.eng.cursor) (hout : t.out = s.out) (hctrl : t.ctrl = s.ctrl)
    (hstatus : t.status = s.status) (hcnt : t.regs.frameCnt = s.regs.frameCnt)
    (hdiscard : t.regs.discardCnt = s.regs.discardCnt) : Receiving s0 l r t where
  held := (bufSlice_congr hmem (by rw [hfree]) ..).trans h.held
  pos := hpos.trans h.pos
  cursor := hcursor.trans h.cursor
  out := hout.trans h.out
  ctrl := hctrl.trans h.ctrl
  status := hstatus.trans h.status
  frameCnt := hcnt.trans h.frameCnt
  discardCnt := hdiscard.trans h.discardCnt

/-- One more byte of the frame, taken and stored (R142). -/
theorem Receiving.takeByte {s0 s : State} {l : List Byte} {b : Byte} {r : List SrcEvent}
    (h : Receiving s0 l (.byte b :: r) s) : Receiving s0 (l ++ [b]) r (takeChunkByte b (withSrc r s)) where
  held := by
    have hat (i : Nat) : bufByte (takeChunkByte b (withSrc r s)) .fbuf i
        = if s.eng.pos = i then b else bufByte s .fbuf i := by
      refine (byteAt_takeChunkByte ..).trans ?_
      by_cases hi : s.eng.pos = i
      · rw [if_pos (by rw [← hi]; rfl), if_pos hi]
      · rw [if_neg (by simp only [bufBase, Config.fbufBase, withSrc]; omega), if_neg hi]
        rfl
    have hold : bufSlice (takeChunkByte b (withSrc r s)) .fbuf 0 l.length = bufSlice s .fbuf 0 l.length := by
      refine List.map_congr_left fun i hi => ?_
      have hlt := List.mem_range.mp hi
      rw [hat, if_neg (by rw [h.pos]; omega)]
    rw [List.length_append, List.length_singleton, bufSlice_add, hold, h.held, Nat.zero_add]
    simp [bufSlice, hat, h.pos]
  pos := by simp [withSrc, h.pos]
  cursor := by simp [withSrc, h.cursor, Nat.add_assoc]
  out := by simp [withSrc, h.out]
  ctrl := h.ctrl
  status := h.status
  frameCnt := h.frameCnt
  discardCnt := h.discardCnt

/-- A chunk whose bytes are offered is taken whole, and its end follows (R142). -/
theorem Receiving.takeChunk {s0 s : State} {l c : List Byte} {r : List SrcEvent}
    (h : Receiving s0 l (c.map .byte ++ r) s) (hf : s.eng.fsm.inFrame = true) (hneed : s.eng.need = c.length)
    (hc : c ≠ []) (hfit : l.length + c.length ≤ 1103) :
    ∃ u, engineRun c.length s = .next (chunkEnd u) ∧ Receiving s0 (l ++ c) r u ∧ u.regs = s.regs
      ∧ u.eng = { s.eng with need := 0, pos := u.eng.pos, cursor := u.eng.cursor } := by
  induction c generalizing l s with
  | nil => exact absurd rfl hc
  | cons b c ih =>
    rw [List.length_cons] at hneed hfit
    have hpos : s.eng.pos < Config.fbufSize := by
      rw [h.pos]
      exact (show l.length ≤ 1102 by omega).trans_lt (by decide)
    have hnext : Receiving s0 (l ++ [b]) (c.map .byte ++ r) (takeChunkByte b (withSrc (c.map .byte ++ r) s)) :=
      h.takeByte
    have hstep : engineStep s = .next
        (if s.eng.need = 1 then chunkEnd (takeChunkByte b (withSrc (c.map .byte ++ r) s))
          else takeChunkByte b (withSrc (c.map .byte ++ r) s)) :=
      engineStep_byte_of_inFrame hf (by omega) hpos (congrArg Outside.src h.out)
    by_cases hlast : c = []
    · subst hlast
      have hone : s.eng.need = 1 := hneed
      rw [if_pos hone] at hstep
      refine ⟨_, by rw [List.length_singleton, engineRun, hstep]; rfl, hnext, rfl, ?_⟩
      simp [hone, withSrc]
    · have hmore : s.eng.need ≠ 1 := by
        have := List.length_pos_iff.mpr hlast
        omega
      rw [if_neg hmore] at hstep
      obtain ⟨u, hrun, hrecv, hregs, heng⟩ :=
        ih hnext hf (by simp [withSrc, hneed]) hlast (by simp; omega)
      refine ⟨u, ?_, by simpa using hrecv, hregs, heng⟩
      rw [List.length_cons, engineRun, hstep]
      exact hrun

/-- A chunk entered with `need` its length is taken whole (R142). -/
theorem Receiving.enterChunk {s0 s : State} {l c : List Byte} {r : List SrcEvent}
    (h : Receiving s0 l (c.map .byte ++ r) s) {f : Fsm} (hf : f.inFrame = true) (hc : c ≠ [])
    (hfit : l.length + c.length ≤ 1103) :
    ∃ u, engineRun c.length (enterChunk f c.length s) = .next (chunkEnd u) ∧ Receiving s0 (l ++ c) r u
      ∧ u.regs = s.regs
      ∧ u.eng = { s.eng with fsm := f, need := 0, pos := u.eng.pos, cursor := u.eng.cursor } :=
  Receiving.takeChunk (h.congr rfl rfl rfl rfl rfl rfl rfl rfl rfl) hf rfl hc hfit

/-! ## The frame start -/

/-- The frame-start bytes on the wire (R90). -/
def startBytes (f : Frame) : List Byte := bytesBE 3 (frameStartBits f).toNat

/-- The frame start has been decoded as `f`'s (R143). -/
structure StartDecoded (f : Frame) (s : State) : Prop where
  fPl : s.eng.fPl.toNat = f.payload.length
  fEaf : s.eng.fEaf = frameEaf f
  fCt : s.eng.fCt = f.crcType
  hdrFs : s.regs.hdrFs = frameHdrFs f

/-- A chunk's bytes do not reach what the frame start left. -/
theorem StartDecoded.of_chunk {f : Frame} {s t : State} (h : StartDecoded f s) {g : Fsm} {n p c : Nat}
    (hregs : t.regs = s.regs) (heng : t.eng = { s.eng with fsm := g, need := n, pos := p, cursor := c }) :
    StartDecoded f t := by
  obtain ⟨hpl, heaf, hct, hfs⟩ := h
  exact ⟨by rw [heng]; exact hpl, by rw [heng]; exact heaf, by rw [heng]; exact hct, by rw [hregs]; exact hfs⟩

/-- The bytes before a frame's payload descriptor. -/
def throughStart (f : Frame) : List Byte := Config.preamble :: startBytes f

/-- The fields of a packed frame-start value (R90). -/
theorem packed_start_fields {mt pl e ct fc : Nat} (hpl : pl < 2 ^ 10) (he : e < 2) (hct : ct < 4) (hfc : fc < 2 ^ 4) :
    let v := (((mt * 2 ^ 10 + pl) * 2 + e) * 2 ^ 2 + ct) * 2 ^ 4 + fc
    v / 2 ^ 7 % 2 ^ 10 = pl ∧ v / 2 ^ 6 % 2 = e ∧ v / 2 ^ 4 % 4 = ct ∧ v / 2 ^ 17 = mt ∧ v % 16 = fc := by
  intro v
  refine ⟨?_, ?_, ?_, ?_, ?_⟩ <;> omega

/-- The frame-start bytes decode to the frame's fields (R90, R143). -/
theorem startDecoded_of_held {f : Frame} (hpl : f.payload.length ≤ 1023) {u : State}
    (hheld : bufSlice u .fbuf 0 (throughStart f).length = throughStart f) : StartDecoded f (decodeFs u) := by
  have hslice : bufSlice u .fbuf 1 3 = startBytes f := by
    have h := bufSlice_of_held (a := [Config.preamble]) (b := startBytes f) (c := [])
      (by simpa [throughStart] using hheld)
    simpa [startBytes] using h
  have hv : beNat (bufSlice u .fbuf 1 3) = (frameStartBits f).toNat := by
    rw [hslice]
    exact beNat_bytesBE_toNat _ rfl
  obtain ⟨hfpl, hfeaf, hfct, hfs, -⟩ := frameStartDecoded { u with eng := { u.eng with fsm := .fs } } rfl
  have hsame : bufSlice { u with eng := { u.eng with fsm := .fs } } .fbuf 1 3 = bufSlice u .fbuf 1 3 := rfl
  rw [hsame, hv, toNat_frameStartBits hpl] at hfpl hfeaf hfct hfs
  obtain ⟨v1, v2, v3, v4, v5⟩ := packed_start_fields (mt := f.messageType.toNat) (show f.payload.length < 2 ^ 10 by omega)
    (Bool.toNat_lt (frameEaf f)) (crcCode_lt f.crcType) f.frameCrc.isLt
  rw [v1] at hfpl
  rw [v2] at hfeaf
  rw [v3] at hfct
  rw [v1, v2, v3, v4, v5] at hfs
  refine ⟨hfpl, ?_, crcCode_injective hfct, BitVec.eq_of_toNat_eq (hfs.trans (toNat_frameHdrFs hpl).symm)⟩
  rw [Bool.eq_iff_iff]
  refine hfeaf.trans ?_
  cases frameEaf f <;> simp

/-- The preamble and the frame-start chunk (R141, R143). -/
theorem run_start {f : Frame} (hpl : f.payload.length ≤ 1023) {s : State} {r : List SrcEvent}
    (hseek : s.eng.fsm = .seek) (hsrc : s.out.src = (throughStart f).map .byte ++ r) :
    ∃ u, engineRun (throughStart f).length s = .next (enterChunk .pd 4 u) ∧ Receiving s (throughStart f) r u
      ∧ StartDecoded f u := by
  have hstep : engineStep s = .next (startAttempt Config.preamble (countByte (withSrc ((startBytes f).map .byte ++ r) s))) := by
    rw [engineStep_byte_of_seek hseek hsrc, seekByte, if_pos rfl]
    rfl
  have hfirst : Receiving s [Config.preamble] ((startBytes f).map .byte ++ r)
      (startAttempt Config.preamble (countByte (withSrc ((startBytes f).map .byte ++ r) s))) := by
    refine ⟨?_, rfl, rfl, rfl, rfl, rfl, rfl, rfl⟩
    exact congrArg (fun b => [b]) ((byteAt_startAttempt ..).trans (if_pos rfl))
  have hlen : (startBytes f).length = 3 := length_bytesBE ..
  obtain ⟨u, hrun, hrecv, hregs, heng⟩ :=
    hfirst.takeChunk rfl hlen.symm (List.ne_nil_of_length_eq_add_one hlen) (by simp [hlen])
  have hfs : u.eng.fsm = .fs := by rw [heng]; rfl
  rw [chunkEnd_of_fs hfs] at hrun
  refine ⟨decodeFs u, ?_, hrecv.congr rfl rfl rfl rfl rfl rfl rfl rfl rfl, startDecoded_of_held hpl hrecv.held⟩
  rw [throughStart, List.length_cons, engineRun, hstep]
  exact hrun

/-! ## The payload descriptor -/

/-- The fields of a packed descriptor base (R91). -/
theorem packed_base_fields {st tag sid spid : Nat} (ttt : Bool) (htag : tag < 2 ^ (16 + 16 * ttt.toNat))
    (hsid : sid < 2 ^ 7) (hspid : spid < 2 ^ 4) :
    let t := ttt.toNat
    let v := (((st * 2 + t) * 2 ^ (16 + 16 * t) + tag) * 2 ^ 7 + sid) * 2 ^ 4 + spid
    v / 2 ^ (28 + 16 * t) = st ∧ v / 2 ^ (27 + 16 * t) % 2 = t ∧ v / 2 ^ 11 % 2 ^ (16 + 16 * t) = tag
      ∧ v / 2 ^ 4 % 2 ^ 7 = sid ∧ v % 2 ^ 4 = spid := by
  intro t v
  cases ttt with
  | false =>
    simp only [Bool.toNat_false, Nat.mul_zero, Nat.add_zero, t, v] at htag ⊢
    refine ⟨?_, ?_, ?_, ?_, ?_⟩ <;> omega
  | true =>
    simp only [Bool.toNat_true, Nat.mul_one, Nat.reduceAdd, t, v] at htag ⊢
    refine ⟨?_, ?_, ?_, ?_, ?_⟩ <;> omega

/-- The time-tag bit of the descriptor's first bytes is TTT (R91, R144). -/
theorem ext_ttt_of_base (f : Frame) : ext ((pdBaseBytes f).take 4) 4 1 = (frameTtt f).toNat := by
  have hfirst : ext ((pdBaseBytes f).take 4) 4 1 = ext (pdBaseBytes f) 4 1 := by
    refine ext_congr fun i _ hi => ?_
    obtain rfl : i = 0 := by omega
    simp [List.getD_eq_getElem?_getD]
  have hlen := length_pdBaseBytes f
  obtain ⟨-, hbit, -⟩ := packed_base_fields (st := f.messageSubtype.toNat) (frameTtt f) (timeTagValue_lt f)
    f.solutionId.isLt f.solutionProcId.isLt
  rw [hfirst, ext_eq_beNat_div (e := 27 + 16 * (frameTtt f).toNat) (by omega), beNat_pdBaseBytes]
  exact hbit

/-- The bytes before a frame's encryption extension, its payload, its auth bytes, and its trailer. -/
def throughBase (f : Frame) : List Byte := throughStart f ++ pdBaseBytes f

def throughExt (f : Frame) : List Byte := throughBase f ++ extBytes f

def throughPayload (f : Frame) : List Byte := throughExt f ++ f.payload

def throughAuth (f : Frame) : List Byte := throughPayload f ++ f.auth

@[simp] theorem length_throughStart (f : Frame) : (throughStart f).length = 4 := by
  simp [throughStart, startBytes]

@[simp] theorem length_throughExt (f : Frame) :
    (throughExt f).length = 8 + 2 * (frameTtt f).toNat + 2 * (frameEaf f).toNat := by
  simp only [throughExt, throughBase, List.length_append, length_throughStart, length_pdBaseBytes,
    length_extBytes]
  omega

/-- The descriptor's first four bytes, and two more when TTT is set (R144, R145). -/
theorem run_base {f : Frame} {s0 u : State} {r : List SrcEvent}
    (h : Receiving s0 (throughStart f) ((pdBaseBytes f).map .byte ++ r) u) (hstart : StartDecoded f u) :
    ∃ w, engineRun (pdBaseBytes f).length (enterChunk .pd 4 u) = .next (enterExtension w)
      ∧ Receiving s0 (throughBase f) r w ∧ StartDecoded f w ∧ w.eng.fTtt = frameTtt f := by
  have hsplit : pdBaseBytes f = (pdBaseBytes f).take 4 ++ (pdBaseBytes f).drop 4 := (List.take_append_drop ..).symm
  have hlen := length_pdBaseBytes f
  have hlen4 : ((pdBaseBytes f).take 4).length = 4 := by rw [List.length_take]; omega
  rw [hsplit, List.map_append, List.append_assoc] at h
  obtain ⟨u1, hrun, hrecv, hregs, heng⟩ := h.enterChunk (f := .pd) rfl
    (List.ne_nil_of_length_eq_add_one hlen4) (by simp [hlen4])
  have hpd : u1.eng.fsm = .pd := by rw [heng]
  rw [chunkEnd_of_pd hpd, hlen4] at hrun
  have hheld : bufSlice u1 .fbuf 4 4 = (pdBaseBytes f).take 4 := by
    have h4 := bufSlice_of_held (a := throughStart f) (b := (pdBaseBytes f).take 4) (c := [])
      (by simpa using hrecv.held)
    rwa [length_throughStart, hlen4] at h4
  have httt : (latchTtt u1).eng.fTtt = frameTtt f := by
    simp only [latchTtt, hheld, ext_ttt_of_base]
    cases frameTtt f <;> rfl
  have hstart1 : StartDecoded f (latchTtt u1) := by
    obtain ⟨hpl, heaf, hct, hfs⟩ := hstart.of_chunk hregs heng
    exact ⟨hpl, heaf, hct, hfs⟩
  have hrecv1 : Receiving s0 (throughStart f ++ (pdBaseBytes f).take 4)
      (((pdBaseBytes f).drop 4).map .byte ++ r) (latchTtt u1) :=
    hrecv.congr rfl rfl rfl rfl rfl rfl rfl rfl rfl
  cases ht : frameTtt f with
  | false =>
    have hnil : (pdBaseBytes f).drop 4 = [] := List.drop_eq_nil_of_le (by rw [hlen, ht]; decide)
    rw [hnil, List.append_nil] at hsplit
    rw [hnil, List.map_nil, List.nil_append, ← hsplit] at hrecv1
    rw [chunkEndPd, httt, ht, if_neg Bool.false_ne_true] at hrun
    have hlen' : (pdBaseBytes f).length = 4 := by rw [hlen, ht]; rfl
    exact ⟨latchTtt u1, by rw [hlen']; exact hrun, hrecv1, hstart1, httt.trans ht⟩
  | true =>
    have hlen2 : ((pdBaseBytes f).drop 4).length = 2 := by rw [List.length_drop, hlen, ht]; rfl
    rw [chunkEndPd, httt, ht, if_pos rfl] at hrun
    obtain ⟨u2, hrun2, hrecv2, hregs2, heng2⟩ := hrecv1.enterChunk (f := .pdTt) rfl
      (List.ne_nil_of_length_eq_add_one hlen2) (by simp [hlen4, hlen2])
    have htt : u2.eng.fsm = .pdTt := by rw [heng2]
    rw [chunkEnd_of_pdTt htt, hlen2] at hrun2
    rw [List.append_assoc, ← hsplit] at hrecv2
    have hlen' : (pdBaseBytes f).length = 4 + 2 := by rw [hlen, ht]; rfl
    refine ⟨u2, by rw [hlen']; exact engineRun_trans hrun hrun2, hrecv2, hstart1.of_chunk hregs2 heng2, ?_⟩
    rw [heng2]
    exact httt.trans ht

/-- The extension's two bytes, when EAF is set (R145). -/
theorem run_extension {f : Frame} {s0 w : State} {r : List SrcEvent}
    (h : Receiving s0 (throughBase f) ((extBytes f).map .byte ++ r) w) (hstart : StartDecoded f w)
    (httt : w.eng.fTtt = frameTtt f) :
    ∃ x, engineRun (extBytes f).length (enterExtension w) = .next (pdDone x)
      ∧ Receiving s0 (throughExt f) r x ∧ StartDecoded f x ∧ x.eng.fTtt = frameTtt f := by
  have hlen := length_extBytes f
  cases heaf : frameEaf f with
  | false =>
    have hnil : extBytes f = [] := List.eq_nil_of_length_eq_zero (by rw [hlen, heaf]; rfl)
    rw [hnil] at h
    rw [enterExtension_of_not_eaf (hstart.fEaf.trans heaf), throughExt, hnil, List.append_nil]
    exact ⟨w, rfl, h, hstart, httt⟩
  | true =>
    have hlen2 : (extBytes f).length = 2 := by rw [hlen, heaf]; rfl
    have hbase : (throughBase f).length ≤ 10 := by
      have := Bool.toNat_lt (frameTtt f)
      simp only [throughBase, List.length_append, length_throughStart, length_pdBaseBytes]
      omega
    obtain ⟨x, hrun, hrecv, hregs, heng⟩ := h.enterChunk (f := .pdEa) rfl
      (List.ne_nil_of_length_eq_add_one hlen2) (by omega)
    have hea : x.eng.fsm = .pdEa := by rw [heng]
    rw [chunkEnd_of_pdEa hea, hlen2] at hrun
    rw [enterExtension_of_eaf (hstart.fEaf.trans heaf), hlen2]
    exact ⟨x, hrun, hrecv, hstart.of_chunk hregs heng, by rw [heng]; exact httt⟩

/-- The payload descriptor has been decoded as `f`'s (R146). -/
structure DescriptorDecoded (f : Frame) (s : State) : Prop extends StartDecoded f s where
  hdrPd : s.regs.hdrPd = frameHdrPd f
  hdrTt : s.regs.hdrTt = frameHdrTt f
  hdrEa : s.regs.hdrEa = frameHdrEa f
  payloadOff : s.regs.payloadOff.toNat = framePayloadOff f
  auth : authLen s.eng.fEaf s.eng.fAi s.eng.fEalc = f.authBytes
  mapped : f.authMapped = true → ealUnmapped s.eng.fEaf s.eng.fAi s.eng.fEalc = false

/-- A chunk's bytes do not reach what the descriptor left. -/
theorem DescriptorDecoded.of_chunk {f : Frame} {s t : State} (h : DescriptorDecoded f s) {g : Fsm} {n p c : Nat}
    (hregs : t.regs = s.regs) (heng : t.eng = { s.eng with fsm := g, need := n, pos := p, cursor := c }) :
    DescriptorDecoded f t := by
  obtain ⟨hstart, hpd, htt, hea, hoff, hauth, hmapped⟩ := h
  rw [← hregs] at hpd htt hea hoff
  exact ⟨hstart.of_chunk hregs heng, hpd, htt, hea, hoff, by rw [heng]; exact hauth, by rw [heng]; exact hmapped⟩

/-- The fields of a packed extension (R92). -/
theorem packed_ext_fields {eid seq ai ealc : Nat} (hseq : seq < 2 ^ 6) (hai : ai < 2 ^ 3) (healc : ealc < 2 ^ 3) :
    let x := ((eid * 2 ^ 6 + seq) * 2 ^ 3 + ai) * 2 ^ 3 + ealc
    x / 2 ^ 12 = eid ∧ x / 2 ^ 6 % 2 ^ 6 = seq ∧ x / 2 ^ 3 % 8 = ai ∧ x % 8 = ealc := by
  intro x
  refine ⟨?_, ?_, ?_, ?_⟩ <;> omega

/-- `pos` at the descriptor's end (R146). -/
theorem pos_of_held {f : Frame} {s0 x : State} {r : List SrcEvent} (h : Receiving s0 (throughExt f) r x)
    (hstart : StartDecoded f x) (httt : x.eng.fTtt = frameTtt f) :
    x.eng.pos = 8 + 2 * x.eng.fTtt.toNat + 2 * x.eng.fEaf.toNat := by
  rw [h.pos, length_throughExt, httt, hstart.fEaf]

/-- The extension decodes to HDR_EA and to the auth length the sender's header says (R92, R94, R146). -/
theorem extension_of_held {f : Frame} {s0 x : State} {r : List SrcEvent} (h : Receiving s0 (throughExt f) r x)
    (hstart : StartDecoded f x) (httt : x.eng.fTtt = frameTtt f) :
    let u := decodePd x
    u.regs.hdrEa = frameHdrEa f ∧ authLen u.eng.fEaf u.eng.fAi u.eng.fEalc = f.authBytes
      ∧ (f.authMapped = true → ealUnmapped u.eng.fEaf u.eng.fAi u.eng.fEalc = false) := by
  intro u
  have hueaf : u.eng.fEaf = frameEaf f := hstart.fEaf
  obtain ⟨-, -, -, hext, hnoext, -⟩ := payloadDescriptorDecoded.2 x (pos_of_held h hstart httt)
  cases he : f.ext with
  | none =>
    have heaf : frameEaf f = false := by rw [frameEaf, he]; rfl
    obtain ⟨-, -, hea⟩ := hnoext (hstart.fEaf.trans heaf)
    rw [hueaf, heaf]
    exact ⟨by rw [hea, frameHdrEa, he], by simp [authLen, Frame.authBytes, he], fun _ => rfl⟩
  | some e =>
    have heaf : frameEaf f = true := by rw [frameEaf, he]; rfl
    have hslice : bufSlice x .fbuf (8 + 2 * x.eng.fTtt.toNat) 2 = extBytes f := by
      have hs := bufSlice_of_held (a := throughBase f) (b := extBytes f) (c := [])
        (by simpa [throughExt] using h.held)
      have hlen : (throughBase f).length = 8 + 2 * x.eng.fTtt.toNat := by
        simp only [throughBase, List.length_append, length_throughStart, length_pdBaseBytes, httt]
        omega
      rwa [hlen, length_extBytes, heaf] at hs
    obtain ⟨hai, healc, hea⟩ := hext (hstart.fEaf.trans heaf)
    obtain ⟨v1, v2, v3, v4⟩ := packed_ext_fields (eid := e.encryptionId.toNat) e.encryptionSequence.isLt
      e.authIndicator.isLt e.authLengthCode.isLt
    rw [hslice, beNat_extBytes he, v3] at hai
    rw [hslice, beNat_extBytes he, v4] at healc
    rw [hslice, beNat_extBytes he, v1, v2, v3, v4] at hea
    rw [hueaf, heaf, BitVec.eq_of_toNat_eq hai, BitVec.eq_of_toNat_eq healc, authBytes_eq_authLen he]
    refine ⟨BitVec.eq_of_toNat_eq (hea.trans (toNat_frameHdrEa he).symm), rfl, fun hmapped => ?_⟩
    simp only [Frame.authMapped, he, Bool.or_eq_true, decide_eq_true_eq] at hmapped
    rw [← Bool.not_eq_true, ealUnmapped_iff]
    omega

/-- The descriptor's bytes decode to the frame's fields (R91, R92, R146). -/
theorem descriptorDecoded_of_held {f : Frame} {s0 x : State} {r : List SrcEvent}
    (h : Receiving s0 (throughExt f) r x) (hstart : StartDecoded f x) (httt : x.eng.fTtt = frameTtt f) :
    DescriptorDecoded f (decodePd x) := by
  have hpos := pos_of_held h hstart httt
  have hbase : bufSlice x .fbuf 4 (4 + 2 * x.eng.fTtt.toNat) = pdBaseBytes f := by
    have hb := bufSlice_of_held (a := throughStart f) (b := pdBaseBytes f) (c := extBytes f) h.held
    rwa [length_throughStart, length_pdBaseBytes, ← httt] at hb
  obtain ⟨hpd, htt, hoff, -⟩ := payloadDescriptorDecoded.2 x hpos
  obtain ⟨hea, hauth, hmapped⟩ := extension_of_held h hstart httt
  obtain ⟨v1, -, v3, v4, v5⟩ := packed_base_fields (st := f.messageSubtype.toNat) (frameTtt f) (timeTagValue_lt f)
    f.solutionId.isLt f.solutionProcId.isLt
  rw [hbase, httt, beNat_pdBaseBytes, v1, v4, v5] at hpd
  rw [hbase, httt, beNat_pdBaseBytes, v3] at htt
  refine ⟨⟨hstart.fPl, hstart.fEaf, hstart.fCt, hstart.hdrFs⟩,
    BitVec.eq_of_toNat_eq (hpd.trans (toNat_frameHdrPd f).symm),
    BitVec.eq_of_toNat_eq (htt.trans (toNat_frameHdrTt f).symm), hea, ?_, hauth, hmapped⟩
  rw [hoff, hpos, httt, hstart.fEaf, framePayloadOff]

/-! ## The payload, the embedded auth and the trailer -/

/-- The payload chunk, when it has a byte (R147, R151). -/
theorem run_payload {f : Frame} (hpl : f.payload.length ≤ 1023) {s0 x : State} {r : List SrcEvent}
    (h : Receiving s0 (throughExt f) (f.payload.map .byte ++ r) x) (hstart : StartDecoded f x)
    (httt : x.eng.fTtt = frameTtt f) :
    ∃ y, engineRun f.payload.length (pdDone x) = .next (payloadDone y)
      ∧ Receiving s0 (throughPayload f) r y ∧ DescriptorDecoded f y := by
  have hdec := descriptorDecoded_of_held h hstart httt
  have hrecv : Receiving s0 (throughExt f) (f.payload.map .byte ++ r) (decodePd x) :=
    h.congr rfl rfl rfl rfl rfl rfl rfl rfl rfl
  have hfit : (throughExt f).length ≤ 12 := by
    have hlttt := Bool.toNat_lt (frameTtt f)
    have hleaf := Bool.toNat_lt (frameEaf f)
    rw [length_throughExt]
    omega
  rw [pdDone, enterPayload, hdec.fPl, throughPayload]
  by_cases hnil : f.payload = []
  · rw [hnil] at hrecv ⊢
    rw [List.append_nil, if_neg (by simp)]
    exact ⟨decodePd x, rfl, hrecv, hdec⟩
  · rw [if_pos (List.length_pos_iff.mpr hnil)]
    obtain ⟨y, hrun, hrecv', hregs, heng⟩ := hrecv.enterChunk (f := .payload) rfl hnil (by omega)
    have hfsm : y.eng.fsm = .payload := by rw [heng]
    rw [chunkEnd_of_payload hfsm] at hrun
    exact ⟨y, hrun, hrecv', hdec.of_chunk hregs heng⟩

/-- A mapped length code, or STRICT_EAL = 0, leads on to the auth bytes (R147, R157). -/
theorem payloadDone_goes_on {f : Frame} {s0 y : State} {r : List SrcEvent}
    (h : Receiving s0 (throughPayload f) r y) (hdec : DescriptorDecoded f y)
    (hok : f.authMapped = true ∨ s0.ctrl.strictEal = false) :
    ∃ z, payloadDone y = enterAuth z ∧ Receiving s0 (throughPayload f) r z ∧ DescriptorDecoded f z := by
  rw [payloadDone]
  by_cases hun : ealUnmapped y.eng.fEaf y.eng.fAi y.eng.fEalc = true
  · have hlax : y.ctrl.strictEal = false := by
      rw [h.ctrl]
      refine hok.resolve_left fun hmapped => ?_
      rw [hdec.mapped hmapped] at hun
      cases hun
    rw [if_pos hun, hlax, if_neg Bool.false_ne_true]
    obtain ⟨⟨hpl, heaf, hct, hfs⟩, hpd, htt, hea, hoff, hauth, hmapped⟩ := hdec
    exact ⟨countUnmapped y, rfl, h.congr rfl rfl rfl rfl rfl rfl rfl rfl rfl,
      ⟨⟨hpl, heaf, hct, hfs⟩, hpd, htt, hea, hoff, hauth, hmapped⟩⟩
  · rw [if_neg hun]
    exact ⟨y, rfl, h, hdec⟩

/-- The auth chunk, when it has a byte (R147, R148). -/
theorem run_auth {f : Frame} (hwf : f.wf = true) {s0 y : State} {r : List SrcEvent}
    (h : Receiving s0 (throughPayload f) (f.auth.map .byte ++ r) y) (hdec : DescriptorDecoded f y) :
    ∃ z, engineRun f.auth.length (enterAuth y) = .next (enterChunk .crc (crcBytes f.crcType) z)
      ∧ Receiving s0 (throughAuth f) r z ∧ DescriptorDecoded f z ∧ z.regs.authLen.toNat = f.authBytes := by
  obtain ⟨hpl, hlen⟩ := (Frame.wf_iff f).mp hwf
  have hle := authBytes_le f
  have hfit : (throughPayload f).length ≤ 1035 := by
    have hlttt := Bool.toNat_lt (frameTtt f)
    have hleaf := Bool.toNat_lt (frameEaf f)
    rw [throughPayload, List.length_append, length_throughExt]
    omega
  have hrecv : Receiving s0 (throughPayload f) (f.auth.map .byte ++ r) (setAuth f.authBytes y) :=
    h.congr rfl rfl rfl rfl rfl rfl rfl rfl rfl
  have hdec' : DescriptorDecoded f (setAuth f.authBytes y) := by
    obtain ⟨⟨hpl, heaf, hct, hfs⟩, hpd, htt, hea, hoff, hauth, hmapped⟩ := hdec
    exact ⟨⟨hpl, heaf, hct, hfs⟩, hpd, htt, hea, hoff, hauth, hmapped⟩
  have hreg : (setAuth f.authBytes y).regs.authLen.toNat = f.authBytes := toNat_ofNat_of_lt (by omega)
  simp only [enterAuth, hdec.auth, hdec.fCt, throughAuth]
  by_cases hnil : f.auth = []
  · have hzero : f.authBytes = 0 := by rw [← hlen, hnil]; rfl
    rw [hnil] at hrecv ⊢
    rw [List.append_nil, if_neg (by omega)]
    exact ⟨setAuth f.authBytes y, rfl, hrecv, hdec', hreg⟩
  · have hpos : 0 < f.authBytes := by rw [← hlen]; exact List.length_pos_iff.mpr hnil
    rw [if_pos hpos]
    obtain ⟨z, hrun, hrecv', hregs, heng⟩ := hrecv.enterChunk (f := .auth) rfl hnil (by omega)
    have hfsm : z.eng.fsm = .auth := by rw [heng]
    have hdec'' := hdec'.of_chunk hregs heng
    rw [chunkEnd_of_auth hfsm, hlen, hdec''.fCt] at hrun
    exact ⟨z, hlen ▸ hrun, hrecv', hdec'', by rw [hregs]; exact hreg⟩

/-- The trailer on the wire (R95). -/
def trailerBytes (f : Frame) : List Byte := bytesBE (crcBytes f.crcType) (crcWord f.crcType (coreBytes f)).toNat

/-- The bytes before the trailer are the preamble and what the CRC covers (R95). -/
theorem throughAuth_eq (f : Frame) : throughAuth f = Config.preamble :: coreBytes f := by
  simp [throughAuth, throughPayload, throughExt, throughBase, throughStart, startBytes, coreBytes]

theorem encodeFrame_eq (f : Frame) : encodeFrame f = throughAuth f ++ trailerBytes f := by
  rw [throughAuth_eq]
  rfl

/-- The trailer received is the one sent, and it matches the CRC of the core bytes (R95, R149). -/
theorem crc_of_held {f : Frame} {s0 q : State} {r : List SrcEvent}
    (h : Receiving s0 (throughAuth f ++ trailerBytes f) r q) (hct : q.eng.fCt = f.crcType) :
    receivedCrc q = crcWord f.crcType (coreBytes f) ∧ coreCrc q = crcWord f.crcType (coreBytes f) := by
  have htrailer : (trailerBytes f).length = crcBytes f.crcType := length_bytesBE ..
  have hcrc := crcBytes_range f.crcType
  have hpos : q.eng.pos = (throughAuth f).length + crcBytes f.crcType := by
    rw [h.pos, List.length_append, htrailer]
  have hcore : q.eng.pos - crcBytes f.crcType - 1 = (coreBytes f).length := by
    rw [hpos, throughAuth_eq, List.length_cons]
    omega
  have hsliceT : bufSlice q .fbuf (q.eng.pos - crcBytes f.crcType) (crcBytes f.crcType) = trailerBytes f := by
    have hs := bufSlice_of_held (a := throughAuth f) (b := trailerBytes f) (c := []) (by simpa using h.held)
    have hbase : q.eng.pos - crcBytes f.crcType = (throughAuth f).length := by omega
    rwa [htrailer, ← hbase] at hs
  have hsliceC : bufSlice q .fbuf 1 (coreBytes f).length = coreBytes f := by
    have hheld := h.held
    rw [throughAuth_eq] at hheld
    exact bufSlice_of_held (a := [Config.preamble]) (b := coreBytes f) (c := trailerBytes f) hheld
  constructor
  · rw [receivedCrc, hct, hsliceT, trailerBytes, beNat_bytesBE_of_lt (toNat_crcWord_lt ..), BitVec.ofNat_toNat,
      BitVec.setWidth_eq]
  · rw [coreCrc, hct, hcore, hsliceC]

/-- The trailer chunk, and the delivery that its matching CRC leads to (R149). -/
theorem run_trailer {f : Frame} (hfit : (encodeFrame f).length ≤ 1103) {s0 z : State} {r : List SrcEvent}
    (h : Receiving s0 (throughAuth f) ((trailerBytes f).map .byte ++ r) z) (hdec : DescriptorDecoded f z) :
    ∃ q, engineRun (trailerBytes f).length (enterChunk .crc (crcBytes f.crcType) z)
        = .next (deliver (recordCrc q))
      ∧ Receiving s0 (encodeFrame f) r q ∧ DescriptorDecoded f q ∧ q.regs.authLen = z.regs.authLen
      ∧ receivedCrc q = crcWord f.crcType (coreBytes f) ∧ coreCrc q = receivedCrc q := by
  have hlen : (trailerBytes f).length = crcBytes f.crcType := length_bytesBE ..
  have hcrc := crcBytes_range f.crcType
  rw [encodeFrame_eq, List.length_append] at hfit
  obtain ⟨q, hrun, hrecv, hregs, heng⟩ := h.enterChunk (f := .crc) rfl
    (List.ne_nil_of_length_pos (by omega)) hfit
  have hfsm : q.eng.fsm = .crc := by rw [heng]
  have hdec' := hdec.of_chunk hregs heng
  obtain ⟨hreceived, hcore⟩ := crc_of_held hrecv hdec'.fCt
  have hmatch : coreCrc q = receivedCrc q := hcore.trans hreceived.symm
  rw [chunkEnd_of_crc hfsm, chunkEndCrc_of_delivered (fun _ => hmatch), hlen] at hrun
  rw [encodeFrame_eq, hlen]
  exact ⟨q, hrun, hrecv, hdec', by rw [hregs], hreceived, hmatch⟩

/-- One whole frame, from SEEK to its delivery. -/
theorem run_frame {f : Frame} (hwf : f.wf = true) {s : State} {r : List SrcEvent} (hseek : s.eng.fsm = .seek)
    (hok : f.authMapped = true ∨ s.ctrl.strictEal = false) (hsrc : s.out.src = (encodeFrame f).map .byte ++ r) :
    ∃ q, engineRun (encodeFrame f).length s = .next (deliver (recordCrc q)) ∧ Receiving s (encodeFrame f) r q
      ∧ DescriptorDecoded f q ∧ q.regs.authLen.toNat = f.authBytes
      ∧ receivedCrc q = crcWord f.crcType (coreBytes f) ∧ coreCrc q = receivedCrc q := by
  obtain ⟨hpl, -⟩ := (Frame.wf_iff f).mp hwf
  obtain ⟨-, -, hfit⟩ := frameLengthFormula f hwf
  have hparts : encodeFrame f = throughStart f ++ (pdBaseBytes f ++ (extBytes f ++ (f.payload ++
      (f.auth ++ trailerBytes f)))) := by
    simp [encodeFrame_eq, throughAuth, throughPayload, throughExt, throughBase]
  have hlen : (encodeFrame f).length = (throughStart f).length + ((pdBaseBytes f).length + ((extBytes f).length
      + (f.payload.length + (f.auth.length + (trailerBytes f).length)))) := by
    simp only [hparts, List.length_append]
  rw [hparts] at hsrc
  simp only [List.map_append, List.append_assoc] at hsrc
  obtain ⟨u, hrunU, hrecvU, hstartU⟩ := run_start hpl hseek hsrc
  obtain ⟨w, hrunW, hrecvW, hstartW, htttW⟩ := run_base hrecvU hstartU
  obtain ⟨x, hrunX, hrecvX, hstartX, htttX⟩ := run_extension hrecvW hstartW htttW
  obtain ⟨y, hrunY, hrecvY, hdecY⟩ := run_payload hpl hrecvX hstartX htttX
  obtain ⟨y', hauthY, hrecvY', hdecY'⟩ := payloadDone_goes_on hrecvY hdecY hok
  rw [hauthY] at hrunY
  obtain ⟨z, hrunZ, hrecvZ, hdecZ, hregZ⟩ := run_auth hwf hrecvY' hdecY'
  obtain ⟨q, hrunQ, hrecvQ, hdecQ, hregQ, hreceived, hmatch⟩ := run_trailer hfit hrecvZ hdecZ
  refine ⟨q, ?_, hrecvQ, hdecQ, hregQ ▸ hregZ, hreceived, hmatch⟩
  rw [hlen]
  exact engineRun_trans hrunU (engineRun_trans hrunW (engineRun_trans hrunX (engineRun_trans hrunY
    (engineRun_trans hrunZ hrunQ))))

/-! ## The bytes before the preamble -/

/-- `n` bytes have been discarded in SEEK since `s0`, and `r` is still offered (R141). -/
structure Discarded (s0 : State) (n : Nat) (r : List SrcEvent) (s : State) : Prop where
  seek : s.eng.fsm = .seek
  out : s.out = { s0.out with src := r }
  cursor : s.eng.cursor = s0.eng.cursor + n
  ctrl : s.ctrl = s0.ctrl
  status : s.status = s0.status
  frameCnt : s.regs.frameCnt = s0.regs.frameCnt
  discardCnt : s.regs.discardCnt = s0.regs.discardCnt + BitVec.ofNat 32 n

/-- A byte that is no preamble is counted and dropped, unless it raises UNKNOWN_PROTOCOL (R141, R185). -/
theorem Discarded.next {s0 s : State} {n : Nat} {b : Byte} {r : List SrcEvent}
    (h : Discarded s0 n (.byte b :: r) s) (hb : b ≠ Config.preamble)
    (hpol : s0.ctrl.upe = false ∨ s0.ctrl.policy ≠ .raise) :
    ∃ t, engineStep s = .next t ∧ Discarded s0 (n + 1) r t := by
  have hcount : s.regs.discardCnt + 1#32 = s0.regs.discardCnt + BitVec.ofNat 32 (n + 1) := by
    rw [h.discardCnt, BitVec.add_assoc, ← BitVec.ofNat_add]
  have hout : (withSrc r s).out = { s0.out with src := r } := by rw [withSrc, h.out]
  have hdropped : Discarded s0 (n + 1) r (countDiscard (countByte (withSrc r s))) :=
    ⟨h.seek, hout, congrArg (· + 1) h.cursor, h.ctrl, h.status, h.frameCnt, hcount⟩
  refine ⟨_, engineStep_byte_of_seek h.seek (congrArg Outside.src h.out), ?_⟩
  rw [seekByte, if_neg hb]
  split
  case isTrue hupe =>
    have hraise : (countDiscard (countByte (withSrc r s))).ctrl.policy ≠ .raise := by
      rw [hdropped.ctrl]
      refine hpol.resolve_left fun hoff => ?_
      rw [← h.ctrl] at hoff
      exact absurd (hoff.symm.trans hupe) Bool.false_ne_true
    have hback := recoverable_of_not_raise hraise .unknownProtocol
    obtain ⟨-, hout', hcursor, hctrl, hstatus, hcnt, hdisc⟩ := hdropped
    refine hback ▸ ⟨rfl, hout', hcursor, hctrl, hstatus, hcnt, hdisc⟩
  case isFalse => exact hdropped

/-- A run over bytes other than the preamble stays in SEEK. -/
theorem Discarded.run {s0 s : State} {n : Nat} {junk : List Byte} {r : List SrcEvent}
    (h : Discarded s0 n (junk.map .byte ++ r) s) (hjunk : ∀ b ∈ junk, b ≠ Config.preamble)
    (hpol : s0.ctrl.upe = false ∨ s0.ctrl.policy ≠ .raise) :
    ∃ t, engineRun junk.length s = .next t ∧ Discarded s0 (n + junk.length) r t := by
  induction junk generalizing n s with
  | nil => exact ⟨s, rfl, h⟩
  | cons b junk ih =>
    obtain ⟨hb, hrest⟩ := List.forall_mem_cons.mp hjunk
    obtain ⟨t, hstep, hnext⟩ := Discarded.next (r := junk.map .byte ++ r) h hb hpol
    obtain ⟨u, hrun, hu⟩ := ih hnext hrest
    refine ⟨u, ?_, ?_⟩
    · rw [List.length_cons, engineRun, hstep]
      exact hrun
    · rw [List.length_cons, Nat.add_comm junk.length, ← Nat.add_assoc]
      exact hu

/-! ## The round trip -/

/-- The CMD write of READ_NEXT (R183, R86). -/
theorem step_readNext {s : State} (hidle : s.eng.fsm = .idle) (heos : s.eng.eos = false)
    (hin : s.out.inputs = expand .readNext) :
    step s = .next (enterSeek (clearFrameFlags (beginCommand 1#4 (s.pop [])))) := by
  have hword : decode 0x00000001#32 = .ok (.readNext .dbuf .crc8) := by decide
  rw [step_of_cmdWrite hin, cmdWrite_of_decode hword]
  exact exec_readNext_of_not_ended (s := s.pop []) hidle heos _ _

/-- The state in which a READ_NEXT started in `s` begins to seek (R183). -/
def seekingFrom (s : State) : State := enterSeek (clearFrameFlags (beginCommand 1#4 (s.pop [])))

/-- A READ_NEXT over discarded bytes and a frame, from the CMD write to the delivery. -/
theorem run_readNext {f : Frame} {junk : List Byte} {after : List SrcEvent} {s : State} (hwf : f.wf = true)
    (hok : f.authMapped = true ∨ s.ctrl.strictEal = false) (hjunk : ∀ b ∈ junk, b ≠ Config.preamble)
    (hpol : s.ctrl.upe = false ∨ s.ctrl.policy ≠ .raise) (hidle : s.eng.fsm = .idle) (heos : s.eng.eos = false)
    (hin : s.out.inputs = expand .readNext) (hsrc : s.out.src = (junk ++ encodeFrame f).map .byte ++ after) :
    ∃ j q, Discarded (seekingFrom s) junk.length ((encodeFrame f).map .byte ++ after) j
      ∧ Host.Core.run Sys2Proof.core (1 + junk.length + (encodeFrame f).length) s = .next (deliver (recordCrc q))
      ∧ Receiving j (encodeFrame f) after q ∧ DescriptorDecoded f q ∧ q.regs.authLen.toNat = f.authBytes
      ∧ receivedCrc q = crcWord f.crcType (coreBytes f) ∧ coreCrc q = receivedCrc q := by
  rw [List.map_append, List.append_assoc] at hsrc
  have hseek : Discarded (seekingFrom s) 0 (junk.map .byte ++ ((encodeFrame f).map .byte ++ after))
      (seekingFrom s) := ⟨rfl, by simp [seekingFrom, hsrc], rfl, rfl, rfl, rfl, by simp⟩
  obtain ⟨j, hrunJ, hj⟩ := hseek.run hjunk hpol
  rw [Nat.zero_add] at hj
  obtain ⟨q, hrunQ, hq⟩ :=
    run_frame hwf hj.seek (by rw [hj.ctrl]; exact hok) (congrArg Outside.src hj.out)
  refine ⟨j, q, hj, ?_, hq⟩
  rw [Nat.add_assoc, Nat.add_comm 1, run_of_step (step_readNext hidle heos hin), run_eq_engineRun _ rfl]
  exact engineRun_trans hrunJ hrunQ

/-- Settles O60: the run of the READ_NEXT, and its delivery read field by field. -/
theorem wireFrameRoundTrip : Obligations.WireFrameRoundTrip := by
  intro f junk after s hwf hok hjunk hpol hidle heos hin hsrc
  obtain ⟨j, q, hj, hrun, hq, hdec, hauth, hreceived, hmatch⟩ :=
    run_readNext hwf hok hjunk hpol hidle heos hin hsrc
  obtain ⟨-, -, hfit⟩ := frameLengthFormula f hwf
  have hctrl : q.ctrl = s.ctrl := hq.ctrl.trans hj.ctrl
  have hstatus : q.status = (seekingFrom s).status := hq.status.trans hj.status
  have hcmdOp : q.status.cmdOp = 1#4 := by rw [hstatus]; rfl
  have hcrcOk : (recordCrc q).status.crcOk = s.ctrl.crcEn := by simp [recordCrc, hmatch, hctrl]
  have hlen : (recordCrc q).regs.frameLen.toNat = (encodeFrame f).length := by
    rw [← hq.pos]
    exact toNat_ofNat_of_lt (by rw [hq.pos]; omega)
  have hcnt : q.regs.frameCnt = s.regs.frameCnt := hq.frameCnt.trans hj.frameCnt
  have hdiscard : q.regs.discardCnt = s.regs.discardCnt + BitVec.ofNat 32 junk.length :=
    hq.discardCnt.trans hj.discardCnt
  have hcursor : q.eng.cursor = s.eng.cursor + junk.length + (encodeFrame f).length :=
    hq.cursor.trans (congrArg (· + _) hj.cursor)
  exact ⟨_, hrun, rfl, rfl, rfl, rfl, hcmdOp, rfl, congrArg Ctrl.crcEn hctrl, hcrcOk, hlen,
    (bufSlice_congr rfl rfl ..).trans hq.held, hdec.hdrFs, hdec.hdrPd, hdec.hdrTt, hdec.hdrEa, hdec.payloadOff,
    hauth, hreceived, congrArg (· + 1#32) hcnt, hdiscard, hcursor, congrArg Outside.src hq.out⟩

end Sys2Proof.Machine
end
